-- ==== Sys2Proof/Word.lean ====
section
/-! DEFINITION. The block's word types. Every value of the block is an unsigned integer
(00_scope.md section 5); bit `i` of a value has weight `2^i` (20_memory.md R33). -/

namespace Sys2Proof

/-- An operand, a result, a working value: 64 bits, unsigned (00_scope.md section 4, `W`). -/
abbrev Word := BitVec 64

/-- A command word `CW`: 194 bits (30_encoding.md R42). -/
abbrev CommandWord := BitVec 194

/-- The product value `P`: exactly 128 bits (40_widening_multiplier.md R56). -/
abbrev Product := BitVec 128

end Sys2Proof
end

