-- ==== Sys2Proof/Config.lean ====
section
/-! DEFINITION. What an implementation fixes and no rule's result depends on (00_scope.md section 4,
92_eei_decisions.md "Parameters left open"). The step function reads nothing of this file; the
functions a parameter selects are in Machine/Wmul.lean and Machine/Mexp.lean, and statements say that
every choice gives the same values. No value of this hardware is free, so no opaque constant stands here. -/

namespace Sys2Proof

/-- `WMUL_REALISATION`: the three realisations of the product stage the source permits (40 R62). -/
inductive WmulRealisation where
  /-- one multiplier array with a 128-bit output -/
  | doubleWidth
  /-- a multiplier that delivers the high and the low 64-bit half separately -/
  | highLow
  /-- four 32x32 partial products with carry propagation (the recipe of 40 R63) -/
  | halves
  deriving DecidableEq, Repr

/-- `REDUCE_REALISATION`: how the 128-by-64 remainder is formed (40 R57); any exact method is allowed. -/
inductive ReduceRealisation where
  /-- the remainder taken at once -/
  | remainder
  /-- bit-serial restoring division (the recipe of 40 R64) -/
  | restoring
  deriving DecidableEq, Repr

/-- The choices an implementation of WMUL makes (40 R57, R62). -/
structure WmulConfig where
  /-- `WMUL_REALISATION` -/
  product : WmulRealisation
  /-- `REDUCE_REALISATION` -/
  reduce : ReduceRealisation
  deriving DecidableEq, Repr

end Sys2Proof
end

