-- ==== Sys2Proof/Syntax.lean ====
section
/-! DEFINITION. The commands of the block: one constructor per row of spec/opcode_table.json, with the
operands of 30_encoding.md R44 in the order of the command word's fields `x`, `y`, `z`. -/

namespace Sys2Proof

/-- A command. The block fetches no instructions: a command is what the host hands it in one accept
(30_encoding.md R42 to R49). -/
inductive Instr where
  /-- `mul_mod a, b, m` (op 0; 40 R59) -/
  | mulMod (a b m : Word)
  /-- `pow_mod a, e, m` (op 1; 41 R72) -/
  | powMod (a e m : Word)
  /-- `is_probable_prime n` (op 2; 42 R76); `y` and `z` are latched and never read (30 R45) -/
  | isProbablePrime (n y z : Word)
  /-- the reserved operation code 3 (30 R47, 60 R97); the three fields are latched and ignored -/
  | reserved (x y z : Word)
  deriving DecidableEq, Repr

/-- A command written as four plain numbers, before they are known to fit their fields: what a host or an
assembler line gives (30_encoding.md R51). -/
structure RawCommand where
  /-- operation code -/
  op : Nat
  /-- first operand -/
  x : Nat
  /-- second operand -/
  y : Nat
  /-- third operand -/
  z : Nat
  deriving DecidableEq, Repr

/-- The four numbers of a command, in field order (30_encoding.md R44, R46). -/
def Instr.raw : Instr → RawCommand
  | .mulMod a b m => ⟨0, a.toNat, b.toNat, m.toNat⟩
  | .powMod a e m => ⟨1, a.toNat, e.toNat, m.toNat⟩
  | .isProbablePrime n y z => ⟨2, n.toNat, y.toNat, z.toNat⟩
  | .reserved x y z => ⟨3, x.toNat, y.toNat, z.toNat⟩

end Sys2Proof
end

