-- ==== Sys2Proof/WellFormed.lean ====
section
/-! DEFINITION. Well-formed commands: four numbers are a command exactly when each fits its field
(30_encoding.md R42, R43, R51: a literal "must lie in 0 .. 2^64-1"). No value that fits is illegal as
an encoding: every command word has a meaning (R48). -/

namespace Sys2Proof

/-- Each number fits its field of the command word. -/
abbrev RawCommand.WellFormed (c : RawCommand) : Prop :=
  c.op < 2 ^ 2 ∧ c.x < 2 ^ 64 ∧ c.y < 2 ^ 64 ∧ c.z < 2 ^ 64

/-- A command is well formed when its four numbers are. -/
abbrev Instr.WellFormed (i : Instr) : Prop := i.raw.WellFormed

/-- The command is inside its function's declared domain (00_scope.md R3): a modulus that is not 0, and an operation
code that names an operation. Exactly these end without a fault (60_exceptions.md R99). -/
def Instr.inDomain : Instr → Bool
  | .mulMod _ _ m => m != 0
  | .powMod _ _ m => m != 0
  | .isProbablePrime _ _ _ => true
  | .reserved _ _ _ => false

/-- `Instr.inDomain` as a proposition. -/
abbrev Instr.InDomain (i : Instr) : Prop := i.inDomain = true

end Sys2Proof
end

