-- ==== Sys2Proof/Decode.lean ====
section
/-! DEFINITION. The command word (30_encoding.md R42, R46): its four fields, the decoder, the encoder, and the
rows of spec/opcode_table.json. Decoding looks at bits 193:192 only; every word has exactly one meaning (R48). -/

namespace Sys2Proof

/-- Field `op`, bits 193:192. -/
def CommandWord.op (w : CommandWord) : BitVec 2 := w.extractLsb' 192 2

/-- Field `x`, bits 191:128. -/
def CommandWord.x (w : CommandWord) : Word := w.extractLsb' 128 64

/-- Field `y`, bits 127:64. -/
def CommandWord.y (w : CommandWord) : Word := w.extractLsb' 64 64

/-- Field `z`, bits 63:0. -/
def CommandWord.z (w : CommandWord) : Word := w.extractLsb' 0 64

/-- `CW = {op, x, y, z}` (30 R42). -/
def commandWord (op : BitVec 2) (x y z : Word) : CommandWord := op ++ x ++ y ++ z

/-- The command four fields make (30 R44, R46): `op` alone selects the operation. -/
def decodeFields (op : BitVec 2) (x y z : Word) : Instr :=
  if op = 0 then .mulMod x y z
  else if op = 1 then .powMod x y z
  else if op = 2 then .isProbablePrime x y z
  else .reserved x y z

/-- The decoder, total on command words (30 R48). -/
def decode (w : CommandWord) : Instr := decodeFields w.op w.x w.y w.z

/-- Why a number is no command. -/
inductive DecodeError where
  /-- the number has a bit above bit 193: it is no 194-bit command word (30 R42) -/
  | widerThanCommandWord
  deriving DecidableEq, Repr

/-- The decoder on any number, rejecting by name what is no command word. -/
def decodeNumber (n : Nat) : Except DecodeError Instr :=
  if n < 2 ^ 194 then .ok (decode (BitVec.ofNat 194 n)) else .error .widerThanCommandWord

/-- The encoder (30 R42, R44, R46). -/
def encode : Instr → CommandWord
  | .mulMod a b m => commandWord 0 a b m
  | .powMod a e m => commandWord 1 a e m
  | .isProbablePrime n y z => commandWord 2 n y z
  | .reserved x y z => commandWord 3 x y z

/-- The operation code of a command (30 R46). -/
def opcodeOf : Instr → BitVec 2
  | .mulMod _ _ _ => 0
  | .powMod _ _ _ => 1
  | .isProbablePrime _ _ _ => 2
  | .reserved _ _ _ => 3

/-- A row of spec/opcode_table.json: a word `w` is of the row when `w &&& mask = pattern`. -/
structure OpcodeRow where
  /-- the row's mnemonic, letter for letter -/
  mnemonic : String
  /-- the row's "mask" -/
  mask : CommandWord
  /-- the row's "match" -/
  pattern : CommandWord
  deriving DecidableEq, Repr

/-- The four rows of spec/opcode_table.json. -/
def opcodeTable : List OpcodeRow :=
  [⟨"mul_mod", 0x3000000000000000000000000000000000000000000000000, 0x0⟩,
   ⟨"pow_mod", 0x3000000000000000000000000000000000000000000000000,
     0x1000000000000000000000000000000000000000000000000⟩,
   ⟨"is_probable_prime", 0x3000000000000000000000000000000000000000000000000,
     0x2000000000000000000000000000000000000000000000000⟩,
   ⟨"(reserved)", 0x3000000000000000000000000000000000000000000000000,
     0x3000000000000000000000000000000000000000000000000⟩]

/-- The mnemonic of a command's row. -/
def mnemonicOf : Instr → String
  | .mulMod _ _ _ => "mul_mod"
  | .powMod _ _ _ => "pow_mod"
  | .isProbablePrime _ _ _ => "is_probable_prime"
  | .reserved _ _ _ => "(reserved)"

/-- The 194-bit word that a number of `nbits` bits stands for: bits from `nbits` up are 0. None where a bit
above bit 193 is set: no such command word exists. -/
def tableCommandWord (nbits w : Nat) : Option CommandWord :=
  let v := w % 2 ^ nbits
  if v < 2 ^ 194 then some (BitVec.ofNat 194 v) else none

/-- What the decoder reads from an instruction whose bits are `w` (numbered as the opcode table numbers
them). The block is not byte-addressed (20 R33): the 194 bits reach it in one transition (20 R35). -/
def decodeTableWord (nbits w : Nat) : Option Instr := (tableCommandWord nbits w).map decode

end Sys2Proof
end

