-- ==== Sys2Proof/Machine/State.lean ====
section
/-! DEFINITION. The state of one AMP CORE block: the registers of 10_state.md R5, and the samples the host will
present on the input ports (R25). Plain data. There is no memory (R5, 20_memory.md R31). -/

namespace Sys2Proof.Machine

/-- The ten values of `PHASE` (10_state.md R16), the block's sequencing state. -/
inductive Phase where
  /-- no command in progress; a command can be accepted -/
  | idle
  /-- `mul_mod` in progress -/
  | mmExec
  /-- `pow_mod` in progress: one iteration a step -/
  | pmLoop
  /-- `is_probable_prime` state 1: range check -/
  | ipRange
  /-- state 2: trial division, one table entry a step -/
  | ipTrial
  /-- state 3: decomposition, one halving a step -/
  | ipDecomp
  /-- state 4: base selection -/
  | ipBase
  /-- state 4: `a^d mod n`, one iteration a step -/
  | ipPow
  /-- state 4: first check of `x` -/
  | ipCheck
  /-- state 4: repeated squaring, one squaring a step -/
  | ipSquare
  deriving DecidableEq, Repr

/-- The input ports as sampled at one step (10_state.md R25). -/
structure Ports where
  /-- synchronous reset, active high -/
  rst : Bool
  /-- the host offers a command -/
  cmdValid : Bool
  /-- command word bits 193:192 -/
  cmdOp : BitVec 2
  /-- command word bits 191:128 -/
  cmdX : Word
  /-- command word bits 127:64 -/
  cmdY : Word
  /-- command word bits 63:0 -/
  cmdZ : Word
  deriving DecidableEq, Repr

/-- The block's own two faults (60_exceptions.md R96, R97, R99). They are reported in the response: the machine
goes on, so they are NOT outcomes of type `Fault`. -/
inductive FaultCode where
  /-- code 1: the reserved operation code -/
  | illegalCommand
  /-- code 2: a modulus of 0 for `mul_mod` or `pow_mod` -/
  | modulusZero
  deriving DecidableEq, Repr

/-- The registers of 10_state.md R5, and the coming samples of the input ports. -/
structure State where
  /-- `PHASE` (R16) -/
  phase : Phase
  /-- `OP`: operation code of the current or last command (R7) -/
  op : BitVec 2
  /-- `CX`: first operand (R6, R8) -/
  cx : Word
  /-- `CY`: second operand (R6) -/
  cy : Word
  /-- `CZ`: third operand (R6) -/
  cz : Word
  /-- `XR`: running result of the exponentiation (R14) -/
  xr : Word
  /-- `XB`: current base (R14) -/
  xb : Word
  /-- `XE`: remaining exponent (R14) -/
  xe : Word
  /-- `XM`: modulus of the exponentiation (R14) -/
  xm : Word
  /-- `D`: `n - 1` being halved, finally the odd part (R15) -/
  d : Word
  /-- `R`: count of halvings (R15, R19) -/
  r : BitVec 6
  /-- `X`: the witness value (R15) -/
  x : Word
  /-- `PI`: index into `SMALL_PRIME` (R18) -/
  pi : BitVec 4
  /-- `BI`: index into `BASE` (R18) -/
  bi : BitVec 3
  /-- `SQ`: squarings done for the current base (R19) -/
  sq : BitVec 6
  /-- `rsp_valid` (R10) -/
  rspValid : Bool
  /-- `rsp_err` (R11) -/
  rspErr : BitVec 2
  /-- `rsp_data` (R9); `none` is the spec's `⊥`, which accept, a fault and reset write into it (R27; log 2) -/
  rspData : Option Word
  /-- `err_sticky` (R12) -/
  errSticky : Bool
  /-- the samples of the input ports at the coming steps, oldest first; `[]` is "all released" (log 3) -/
  inputs : List Ports
  deriving DecidableEq, Repr

/-- Why a step has no next state. DEDUCED (log 5): the spec gives these no behaviour because no sequence of
commands reaches them (20 R34, 40 R58, 10 R18, R19). Stopping is safe, and no reachable state stops. -/
inductive Fault where
  /-- raised by trial division and base selection: a table index past its table (20 R34); safe -/
  | romIndexOutOfRange
  /-- raised by a step that evaluates `mulmod` with modulus 0, for which it is not defined (40 R58); safe -/
  | zeroModulusInStep
  /-- raised by decomposition and `next_base`: a count that no longer fits its register (10 R18, R19, R22); safe -/
  | counterPastWidth
  deriving DecidableEq, Repr

/-- Why an instruction or a host line has no meaning. -/
inductive Refusal where
  /-- raised by `exec` for an instruction that has no meaning yet; safe -/
  | notModelled (mnemonic : String)
  /-- raised by the host-program layer when a line binds a variable to `rsp_data` that has no value
  (10 R27, 30 R53, 93 U3); safe -/
  | hostReadsNoValue
  /-- raised by the host-program layer when an operand names a variable nothing bound (30 R53; log 11); safe -/
  | hostUnboundVariable
  /-- raised by the several-blocks layer for a block the system does not have (60 R108); safe -/
  | noSuchBlock
  /-- raised by the power-on layer for a step without `rst` before the first reset (70 R112, 93 U4); safe -/
  | beforeFirstReset
  deriving DecidableEq, Repr

/-- The block right after reset (10 R28, 70 R110). `rsp_data` is `⊥`. DESIGN CHOICE, unsafe (log 1): the registers
the spec resets to `⊥` (`OP` to `SQ`) hold 0. -/
def State.reset : State where
  phase := .idle
  op := 0
  cx := 0
  cy := 0
  cz := 0
  xr := 0
  xb := 0
  xe := 0
  xm := 0
  d := 0
  r := 0
  x := 0
  pi := 0
  bi := 0
  sq := 0
  rspValid := false
  rspErr := 0
  rspData := none
  errSticky := false
  inputs := []

end Sys2Proof.Machine
end

