-- ==== Sys2Proof/Machine/Operands.lean ====
section
/-! DEFINITION. Operands: the command word a sample of the ports carries (30_encoding.md R42 to R44, R54), which
field is which operand, and the plain measures of a word (00_scope.md section 5). -/

namespace Sys2Proof.Machine

/-- The ports all released: no reset, no command offered. The command ports are not looked at (93 U12). -/
def releasedPorts : Ports := ⟨false, false, 0, 0, 0, 0⟩

/-- The ports with `rst` asserted. -/
def resetPorts : Ports := { releasedPorts with rst := true }

/-- The ports offering a command word (30 R42, R54). -/
def offerPorts (w : CommandWord) : Ports := ⟨false, true, w.op, w.x, w.y, w.z⟩

/-- The command word on the command ports (30 R42). -/
def portsWord (p : Ports) : CommandWord := commandWord p.cmdOp p.cmdX p.cmdY p.cmdZ

/-- The sample of the input ports at this step; past the end of the list the ports are released (log 3). -/
def sampleOf (s : State) : Ports := s.inputs.headD releasedPorts

/-- The state with this step's sample taken. -/
def dropSample (s : State) : State := { s with inputs := s.inputs.tail }

/-- `bitlen(e)`: 0 for 0, else `floor(log2 e) + 1` (00 section 5). -/
def bitlen (e : Word) : Nat := if e = 0 then 0 else e.toNat.log2 + 1

/-- `popcount(e)`: the number of 1 bits (00 section 5). -/
def popcount (e : Word) : Nat := ((List.range 64).filter (fun i => e.getLsbD i)).length

/-- `e[0] == 1`: the source's "the low bit" is set (00 section 5). -/
def lowBit (e : Word) : Bool := e.getLsbD 0

/-- `x == n - 1` over the integers (00 section 5: `-` is exact), so that it is false for `n = 0`. -/
def isPred (x n : Word) : Bool := x.toNat + 1 == n.toNat

/-- `zext_64(verdict ? 1 : 0)` (30 R50). -/
def verdictWord (v : Bool) : Word := if v then 1 else 0

end Sys2Proof.Machine
end

