-- ==== Sys2Proof/Machine/Flags.lean ====
section
/-! DEFINITION. The status values and the output ports (10_state.md R10 to R13, R25). Reading a port has no side
effect (20_memory.md R35): these are functions of the state. -/

namespace Sys2Proof.Machine

/-- The code of a fault on `rsp_err` (10 R11, 60 R99); code 3 is never produced. -/
def faultCodeBits : FaultCode → BitVec 2
  | .illegalCommand => 1
  | .modulusZero => 2

/-- `busy = (PHASE != IDLE)` (10 R13). -/
def busy (s : State) : Bool := s.phase != .idle

/-- `cmd_ready = (PHASE == IDLE) and not rst` (10 R13). -/
def cmdReady (s : State) : Bool := s.phase == .idle && !(sampleOf s).rst

/-- Accept happens at this step: `cmd_valid == 1`, `cmd_ready == 1`, `rst == 0` (30 R54). -/
def acceptsNow (s : State) : Bool := cmdReady s && (sampleOf s).cmdValid

/-- `rsp_err` as a host may use it: meaningful only while `rsp_valid == 1` (70 R115). -/
def hostReadErr (s : State) : Option (BitVec 2) := if s.rspValid then some s.rspErr else none

/-- `rsp_data` as a host may use it: no value unless `rsp_valid == 1` and `rsp_err == 0`
(10 R27, 70 R115, 93 U3). -/
def hostReadData (s : State) : Option Word :=
  if s.rspValid && s.rspErr == 0 then s.rspData else none

/-- The output ports (10 R25). -/
structure Outputs where
  /-- R13 -/
  cmdReady : Bool
  /-- R13 -/
  busy : Bool
  /-- R10 -/
  rspValid : Bool
  /-- R11 -/
  rspErr : BitVec 2
  /-- R9, R27: `none` where the wires carry no value -/
  rspData : Option Word
  /-- R12 -/
  errSticky : Bool
  deriving DecidableEq, Repr

/-- What the host observes (10 R29: nothing else). -/
def outputs (s : State) : Outputs :=
  ⟨cmdReady s, busy s, s.rspValid, s.rspErr, hostReadData s, s.errSticky⟩

/-- The field summary of 10 R13: bits 5 to 0 of the status group (bits 7:6 hold nothing; the group has no
address). -/
def statusGroup (s : State) : BitVec 6 :=
  BitVec.ofBool s.errSticky ++ s.rspErr ++ BitVec.ofBool s.rspValid ++ BitVec.ofBool (busy s)
    ++ BitVec.ofBool (cmdReady s)

end Sys2Proof.Machine
end

