-- ==== Sys2Proof/Machine/Ops.lean ====
section
/-! DEFINITION. The named operations every meaning and every controller step is written with: latching a command,
ending it normally (10_state.md R26), taking a fault (60_exceptions.md R98), reset (70 R110), and accept
(30_encoding.md R49). There is no return from a fault (60 R104): the next accept clears it. -/

namespace Sys2Proof.Machine

/-- What every accept writes first (30 R49): the command latches, and an empty response. -/
def latchCommand (op : BitVec 2) (x y z : Word) (s : State) : State :=
  { s with op := op, cx := x, cy := y, cz := z, rspValid := false, rspErr := 0, rspData := none }

/-- `complete(v)` (10 R26): the normal end of a command. -/
def complete (v : Word) (s : State) : State :=
  { s with rspData := some v, rspErr := 0, rspValid := true, phase := .idle }

/-- `raise Fault(c)` (60 R98): the one fault mechanism; the response has the code and no data. -/
def raiseFault (c : FaultCode) (s : State) : State :=
  { s with rspData := none, rspErr := faultCodeBits c, rspValid := true, errSticky := true, phase := .idle }

/-- `PHASE <- p`. -/
def gotoPhase (p : Phase) (s : State) : State := { s with phase := p }

/-- The start of an exponentiation `a^e mod m` on the MEXP registers (30 R49, 42 R83): `XR <- 1 mod m`,
`XB <- a`, `XE <- e`, `XM <- m`. -/
def loadMexp (a e m : Word) (s : State) : State := { s with xr := 1 % m, xb := a, xe := e, xm := m }

/-- Reset (70 R110): every register at its reset value; the host's coming samples are the host's. -/
def resetBlock (s : State) : State := { State.reset with inputs := s.inputs }

/-- Accept (30 R49), enabled exactly when `PHASE == IDLE`: latch the fields, then do `k`, the command's own
part. A command offered while the block is busy is not taken and changes nothing (70 R113). -/
def accept (op : BitVec 2) (x y z : Word) (k : State → State) (s : State) :
    Host.Outcome State Fault Refusal :=
  if s.phase = .idle then .next (k (latchCommand op x y z s)) else .next s

/-- The part of accept that `mul_mod` and `pow_mod` share (30 R49, 60 R96): a zero modulus faults, else `k`. -/
def withModulus (m : Word) (k : State → State) (s : State) : State :=
  if m = 0 then raiseFault .modulusZero s else k s

end Sys2Proof.Machine
end

