-- ==== Sys2Proof/Machine/Wmul.lean ====
section
/-! DEFINITION. widening_multiplier (40_widening_multiplier.md): the function `mulmod`, the realisations the spec
permits, the command `mul_mod` and its one controller step. -/

namespace Sys2Proof.Machine

/-- Product stage (40 R56): `P = a * b`, exact in 128 bits. -/
def product (a b : Word) : Product := a.setWidth 128 * b.setWidth 128

/-- Reduce stage (40 R57): the exact remainder of the 128-bit `P` by the 64-bit `m`, `q[63:0]`. Defined by the
spec for `m > 0` only. -/
def reduce (p : Product) (m : Word) : Word := (p % m.setWidth 128).setWidth 64

/-- `mulmod(a, b, m)` (40 R58). Every step that evaluates it stops by name where `m` is 0. -/
def mulmod (a b m : Word) : Word := reduce (product a b) m

/-- The high and the low half of the product, delivered separately (40 R62). -/
def productHigh (a b : Word) : Word := (product a b).extractLsb' 64 64
/-- The low half. -/
def productLow (a b : Word) : Word := (product a b).extractLsb' 0 64

/-- The recipe of 40 R63: four 32x32 partial products and a middle sum. Every value is written in 64 bits,
which 40 R63 shows is enough (`mid` needs 34). -/
def productHalves (a b : Word) : Product :=
  let al : Word := (a.extractLsb' 0 32).setWidth 64
  let ah : Word := (a.extractLsb' 32 32).setWidth 64
  let bl : Word := (b.extractLsb' 0 32).setWidth 64
  let bh : Word := (b.extractLsb' 32 32).setWidth 64
  let ll := al * bl
  let lh := al * bh
  let hl := ah * bl
  let hh := ah * bh
  let lo32 (v : Word) : Word := (v.extractLsb' 0 32).setWidth 64
  let hi32 (v : Word) : Word := (v.extractLsb' 32 32).setWidth 64
  let mid := hi32 ll + lo32 lh + lo32 hl
  (hh + hi32 lh + hi32 hl + hi32 mid) ++ mid.extractLsb' 0 32 ++ ll.extractLsb' 0 32

/-- The product stage under a realisation (`WMUL_REALISATION`, 40 R62). -/
def productBy : WmulRealisation → Word → Word → Product
  | .doubleWidth, a, b => product a b
  | .highLow, a, b => productHigh a b ++ productLow a b
  | .halves, a, b => productHalves a b

/-- The loop of 40 R64 over the bits `k-1 .. 0` of `P`; `rem` is 65 bits wide. -/
def restoringLoop (p : Product) (m : Word) : Nat → BitVec 65 → BitVec 65
  | 0, rem => rem
  | k + 1, rem =>
    let next := (rem <<< 1) ||| (BitVec.ofBool (p.getLsbD k)).setWidth 65
    restoringLoop p m k (if m.setWidth 65 ≤ next then next - m.setWidth 65 else next)

/-- The recipe of 40 R64: bit-serial restoring division, bits 127 down to 0. -/
def reduceRestoring (p : Product) (m : Word) : Word := (restoringLoop p m 128 0).setWidth 64

/-- The reduce stage under a realisation (`REDUCE_REALISATION`, 40 R57). -/
def reduceBy : ReduceRealisation → Product → Word → Word
  | .remainder, p, m => reduce p m
  | .restoring, p, m => reduceRestoring p m

/-- WMUL under an implementation's choices. -/
def mulmodBy (c : WmulConfig) (a b m : Word) : Word := reduceBy c.reduce (productBy c.product a b) m

/-- Accept of `mul_mod a, b, m` (30 R49, 40 R59): ModulusZero when `m` is 0, else `PHASE <- MM_EXEC`. -/
def execMulMod (a b m : Word) (s : State) : Host.Outcome State Fault Refusal :=
  accept 0 a b m (withModulus m (gotoPhase .mmExec)) s

/-- The step of `MM_EXEC` (40 R60): `complete(mulmod(CX, CY, CZ))`. -/
def stepMmExec (s : State) : Host.Outcome State Fault Refusal :=
  if s.cz = 0 then .fault .zeroModulusInStep else .next (complete (mulmod s.cx s.cy s.cz) s)

end Sys2Proof.Machine
end

