-- ==== Sys2Proof/Machine/Mexp.lean ====
section
/-! DEFINITION. modular_exponentiator (41_modular_exponentiator.md): the function `powmod`, the iteration
`mexp_iter`, the command `pow_mod` and its controller step. -/

namespace Sys2Proof.Machine

/-- At most `k` passes of the loop of 41 R66, which ends when `e` is 0. -/
def powmodLoop (m : Word) : Nat → Word → Word → Word → Word
  | 0, r, _, _ => r
  | k + 1, r, base, e =>
    if e = 0 then r
    else powmodLoop m k (if lowBit e then mulmod r base m else r) (mulmod base base m) (e >>> 1)

/-- `powmod(a, e, m)` (41 R66): a 64-bit exponent needs at most 64 passes (41 R68). The initial value is
`1 mod m` (90_conflicts.md C2). -/
def powmod (a e m : Word) : Word := powmodLoop m 64 (1 % m) a e

/-- `mexp_iter` (41 R73): all right-hand sides read the registers before the step; `XM` is not written. -/
def mexpIter (s : State) : State :=
  { s with
    xr := if lowBit s.xe then mulmod s.xr s.xb s.xm else s.xr
    xb := mulmod s.xb s.xb s.xm
    xe := s.xe >>> 1 }

/-- The first half of an iteration done on one multiplier (41 R67): multiply `XR` by the base. -/
def mexpMultiply (s : State) : State :=
  { s with xr := if lowBit s.xe then mulmod s.xr s.xb s.xm else s.xr }

/-- The second half (41 R67): square the base and shift the exponent. -/
def mexpSquare (s : State) : State :=
  { s with xb := mulmod s.xb s.xb s.xm, xe := s.xe >>> 1 }

/-- One step of an exponentiation (41 R73, 42 R85): `done` when `XE` is 0, else one iteration. -/
def mexpStep (done : State → State) (s : State) : Host.Outcome State Fault Refusal :=
  if s.xe = 0 then .next (done s)
  else if s.xm = 0 then .fault .zeroModulusInStep
  else .next (mexpIter s)

/-- Accept of `pow_mod a, e, m` (30 R49, 41 R72): ModulusZero when `m` is 0, whatever `a` and `e`. -/
def execPowMod (a e m : Word) (s : State) : Host.Outcome State Fault Refusal :=
  accept 1 a e m (withModulus m (fun t => gotoPhase .pmLoop (loadMexp a e m t))) s

/-- The step of `PM_LOOP` (41 R73). -/
def stepPmLoop (s : State) : Host.Outcome State Fault Refusal :=
  mexpStep (fun t => complete t.xr t) s

end Sys2Proof.Machine
end

