-- ==== Sys2Proof/Machine/Rom.lean ====
section
/-! DEFINITION. The two constant tables and the read primitive (20_memory.md R30, R32, R34, R122). They are not
state: nothing changes them (10_state.md R23). -/

namespace Sys2Proof.Machine

/-- The two tables (20 R32). -/
inductive Table where
  /-- `SMALL_PRIME`, indexed by `PI` -/
  | smallPrime
  /-- `BASE`, indexed by `BI` -/
  | base
  deriving DecidableEq, Repr

/-- `SMALL_PRIME`: the primes below 40 in table order (20 R30). -/
def smallPrimes : List Word := [2, 3, 5, 7, 11, 13, 17, 19, 23, 29, 31, 37]

/-- `BASE`: the witness bases in table order (20 R30, 42 R94). -/
def bases : List Word := [2, 3, 5, 7, 11, 13, 17]

/-- The contents of a table. -/
def tableEntries : Table → List Word
  | .smallPrime => smallPrimes
  | .base => bases

/-- `RomRead(T, i)`: the whole entry, zero-extended, no side effect (20 R30, R35); partial (R34): an index past
the table reads nothing. -/
def romRead (t : Table) (i : Nat) : Option Word := (tableEntries t)[i]?

end Sys2Proof.Machine
end

