-- ==== Sys2Proof/Machine/Mrt.lean ====
section
/-! DEFINITION. miller_rabin_test (42_miller_rabin_test.md): the function `verdict`, the command
`is_probable_prime`, and one controller step per phase, in the source's order of states. -/

namespace Sys2Proof.Machine

/-! ### The big-step functions -/

/-- The remainder of trial division (42 R77); it does not use WMUL. -/
def trialRem (n p : Word) : Word := n % p

/-- State 2 over a list of table entries (42 R76, R79): the first entry that divides `n` decides. -/
def trialDivision (n : Word) : List Word → Option Bool
  | [] => none
  | p :: ps => if trialRem n p = 0 then some (n == p) else trialDivision n ps

/-- At most `k` halvings of `d`, counting them into `r` (42 R80). -/
def decomposeLoop : Nat → Word → Nat → Word × Nat
  | 0, d, r => (d, r)
  | k + 1, d, r => if lowBit d then (d, r) else decomposeLoop k (d >>> 1) (r + 1)

/-- `decompose(n)` (42 R80): `n - 1 = d * 2^r`. Used for `n >= 41` only (42 R81; log 9). -/
def decompose (n : Word) : Word × Nat := decomposeLoop 64 (n - 1) 0

/-- The repetition of 42 R82: up to `k` squarings, true as soon as one gives `n - 1`. -/
def squaringsReachPred (n : Word) : Nat → Word → Bool
  | 0, _ => false
  | k + 1, x =>
    let x2 := mulmod x x n
    if isPred x2 n then true else squaringsReachPred n k x2

/-- The strong probable-prime check of `n` to base `a` (42 R82). -/
def sprp (n d : Word) (r : Nat) (a : Word) : Bool :=
  let x := powmod a d n
  if x == 1 || isPred x n then true else squaringsReachPred n (r - 1) x

/-- A base is skipped, which counts as passing (42 R83); never true for `n >= 41` (42 R84). -/
def baseSkipped (n a : Word) : Bool := n ≤ a || a % n == 0

/-- State 4 over a list of bases (42 R76, R89): false at the first base that fails. -/
def witnessLoop (n d : Word) (r : Nat) : List Word → Bool
  | [] => true
  | a :: as => if baseSkipped n a then witnessLoop n d r as
    else if sprp n d r a then witnessLoop n d r as else false

/-- `verdict(n)` (42 R76, R91): the five states in order, terminal on the first decisive verdict. -/
def verdict (n : Word) : Bool :=
  if n < 2 then false
  else match trialDivision n smallPrimes with
    | some v => v
    | none => witnessLoop n (decompose n).1 (decompose n).2 bases

/-! ### The command and its controller steps -/

/-- Accept of `is_probable_prime n` (30 R49, 42 R76). -/
def execIsProbablePrime (n y z : Word) (s : State) : Host.Outcome State Fault Refusal :=
  accept 2 n y z (gotoPhase .ipRange) s

/-- The step of `IP_RANGE` (42 R78). -/
def stepIpRange (s : State) : Host.Outcome State Fault Refusal :=
  if s.cx < 2 then .next (complete (verdictWord false) s)
  else .next { s with pi := 0, phase := .ipTrial }

/-- The step of `IP_TRIAL` (42 R79): one table entry. -/
def stepIpTrial (s : State) : Host.Outcome State Fault Refusal :=
  match romRead .smallPrime s.pi.toNat with
  | none => .fault .romIndexOutOfRange
  | some p =>
    if trialRem s.cx p = 0 then .next (complete (verdictWord (s.cx == p)) s)
    else if s.pi = 11 then .next { s with d := s.cx - 1, r := 0, phase := .ipDecomp }
    else .next { s with pi := s.pi + 1 }

/-- The step of `IP_DECOMP` (42 R80): one halving. -/
def stepIpDecomp (s : State) : Host.Outcome State Fault Refusal :=
  if lowBit s.d then .next { s with bi := 0, phase := .ipBase }
  else if s.r = 63 then .fault .counterPastWidth
  else .next { s with d := s.d >>> 1, r := s.r + 1 }

/-- `next_base` (42 R88): the end of one base's turn. -/
def nextBase (s : State) : Host.Outcome State Fault Refusal :=
  if s.bi = 6 then .next (complete (verdictWord true) s)
  else if s.bi = 7 then .fault .counterPastWidth
  else .next { s with bi := s.bi + 1, phase := .ipBase }

/-- The step of `IP_BASE` (42 R83): select the base, test the skip conditions, start `a^d mod n`. -/
def stepIpBase (s : State) : Host.Outcome State Fault Refusal :=
  match romRead .base s.bi.toNat with
  | none => .fault .romIndexOutOfRange
  | some a => if baseSkipped s.cx a then nextBase s
    else .next (gotoPhase .ipPow (loadMexp a s.d s.cx s))

/-- The step of `IP_POW` (42 R85). -/
def stepIpPow (s : State) : Host.Outcome State Fault Refusal :=
  mexpStep (fun t => { t with x := t.xr, phase := .ipCheck }) s

/-- The step of `IP_CHECK` (42 R86). -/
def stepIpCheck (s : State) : Host.Outcome State Fault Refusal :=
  if s.x == 1 || isPred s.x s.cx then nextBase s
  else .next { s with sq := 0, phase := .ipSquare }

/-- The step of `IP_SQUARE` (42 R87): one squaring, or the end of a base that fails. -/
def stepIpSquare (s : State) : Host.Outcome State Fault Refusal :=
  if s.r.toNat ≤ s.sq.toNat + 1 then .next (complete (verdictWord false) s)
  else if s.cx = 0 then .fault .zeroModulusInStep
  else
    let t := { s with x := mulmod s.x s.x s.cx, sq := s.sq + 1 }
    if isPred t.x t.cx then nextBase t else .next t

end Sys2Proof.Machine
end

