-- ==== Sys2Proof/Machine/Controller.lean ====
section
/-! DEFINITION. The controller: one transition per phase (10_state.md R16, R17, R121). -/

namespace Sys2Proof.Machine

/-- The one small-step rule the current phase enables (10 R17); in `IDLE` the controller has no step. -/
def controllerStep (s : State) : Host.Outcome State Fault Refusal :=
  match s.phase with
  | .idle => .next s
  | .mmExec => stepMmExec s
  | .pmLoop => stepPmLoop s
  | .ipRange => stepIpRange s
  | .ipTrial => stepIpTrial s
  | .ipDecomp => stepIpDecomp s
  | .ipBase => stepIpBase s
  | .ipPow => stepIpPow s
  | .ipCheck => stepIpCheck s
  | .ipSquare => stepIpSquare s

end Sys2Proof.Machine
end

