-- ==== Sys2Proof/Machine/Reserved.lean ====
section
/-! DEFINITION. The reserved operation code (30_encoding.md R47, 60_exceptions.md R97). -/

namespace Sys2Proof.Machine

/-- Accept of `op = 3` (30 R49, 60 R97): the command is accepted and ends at once with IllegalCommand, also when
its `z` field is 0 (60 R102). -/
def execReserved (x y z : Word) (s : State) : Host.Outcome State Fault Refusal :=
  accept 3 x y z (raiseFault .illegalCommand) s

end Sys2Proof.Machine
end

