-- ==== Sys2Proof/Machine/Dispatch.lean ====
section
/-! DEFINITION. One arm per command. `exec i s` is the host's accept of command `i` (30_encoding.md R49); the
controller's steps after it are `controllerStep`. -/

namespace Sys2Proof.Machine

/-- What the block does when the host offers command `i` in state `s`. -/
def exec (i : Instr) (s : State) : Host.Outcome State Fault Refusal :=
  match i with
  | .mulMod a b m => Sys2Proof.Machine.execMulMod a b m s
  | .powMod a e m => Sys2Proof.Machine.execPowMod a e m s
  | .isProbablePrime n y z => Sys2Proof.Machine.execIsProbablePrime n y z s
  | .reserved x y z => Sys2Proof.Machine.execReserved x y z s

end Sys2Proof.Machine
end

