-- ==== Sys2Proof/Machine/Step.lean ====
section
/-! DEFINITION. One step of the block: the ports are sampled, and exactly one transition happens. -/

namespace Sys2Proof.Machine

/-- One step. Reset has priority over everything (70 R111); while the block is busy the controller takes its step
and the command ports are not looked at (70 R113, R114); when it is idle an offered command is accepted (30 R54)
and otherwise nothing changes (70 R116). One step is one abstract transition, not a number of cycles (log 4). -/
def step (s : State) : Host.Outcome State Fault Refusal :=
  if (sampleOf s).rst then .next (resetBlock (dropSample s))
  else if busy s then controllerStep (dropSample s)
  else if (sampleOf s).cmdValid then exec (decode (portsWord (sampleOf s))) (dropSample s)
  else .next (dropSample s)

/-- `s` with the command whose bits are `w` (numbered as spec/opcode_table.json numbers them) on the ports at the
next step, and the block idle so that it is accepted there. A number that is no command word offers nothing. -/
def State.withFetchWord (s : State) (nbits w : Nat) : State :=
  { s with
    phase := .idle
    inputs := (match tableCommandWord nbits w with
      | some cw => offerPorts cw
      | none => releasedPorts) :: s.inputs.tail }

end Sys2Proof.Machine
end

