-- ==== Sys2Proof/Machine/Assembler.lean ====
section
/-! DEFINITION. The textual form of commands (30_encoding.md R51 to R53): one command a line, mnemonic and operands, a
comment from `#` on, an optional `$name = ` before it. A line is a list of characters. What R51 and R53 leave
open (blanks, in the binding too, the letters of a name, the case of hexadecimal digits, lines without a command) is
log 10. -/

namespace Sys2Proof.Machine

/-- The name of a host variable, without its `$` (30 R53). -/
abbrev VarName := List Char

/-- An operand of a line: a literal, already known to fit 64 bits, or a host variable (30 R51). -/
inductive LineOperand where
  /-- a literal in `0 .. 2^64-1` -/
  | literal (v : Word)
  /-- `$name` -/
  | variable (name : VarName)
  deriving DecidableEq, Repr

/-- What one line of a host program offers to the block (30 R51, R52: exactly one command a line). -/
inductive LineCommand where
  /-- `mul_mod a, b, m` -/
  | mulMod (a b m : LineOperand)
  /-- `pow_mod a, e, m` -/
  | powMod (a e m : LineOperand)
  /-- `is_probable_prime n`; `y` and `z` assemble to 0 (30 R45, R51) -/
  | isProbablePrime (n : LineOperand)
  /-- a raw command word the host offers (95_test_vectors.md P5); the only way to offer `op = 3`, which has no
  mnemonic -/
  | raw (w : CommandWord)
  deriving DecidableEq, Repr

/-- A line: the variable it binds, if any, and its command (30 R53). -/
structure HostLine where
  /-- the `$name` before `=`, if any -/
  bind : Option VarName
  /-- the command offered -/
  command : LineCommand
  deriving DecidableEq, Repr

/-- Why a line is an assembly error, "not a command" (30 R51). -/
inductive AsmError where
  /-- the mnemonic is none of the three -/
  | unknownMnemonic
  /-- too few or too many operands -/
  | wrongOperandCount
  /-- an operand that is no literal of R51 and no `$name` -/
  | badOperand
  /-- a literal outside `0 .. 2^64-1` -/
  | literalOutOfRange
  /-- a line that begins with `$` and is not `$name = ` -/
  | badBinding
  deriving DecidableEq, Repr

/-- A blank inside a line (log 10). -/
def isBlank (c : Char) : Bool := c == ' ' || c == '\t'

/-- A character of a variable's name (log 10): a letter, a digit or `_`. -/
def isNameChar (c : Char) : Bool := c.isAlphanum || c == '_'

/-- The characters without the blanks at either end. -/
def trimBlanks (cs : List Char) : List Char :=
  ((cs.dropWhile isBlank).reverse.dropWhile isBlank).reverse

/-- A line without its comment: `#` starts a comment that runs to the end of the line (30 R51). -/
def stripComment (cs : List Char) : List Char := cs.takeWhile (fun c => c != '#')

/-- The value of a digit in base 10 or 16. -/
def digitValue (radix : Nat) (c : Char) : Option Nat :=
  let v :=
    if '0' ≤ c ∧ c ≤ '9' then some (c.toNat - '0'.toNat)
    else if 'a' ≤ c ∧ c ≤ 'f' then some (c.toNat - 'a'.toNat + 10)
    else if 'A' ≤ c ∧ c ≤ 'F' then some (c.toNat - 'A'.toNat + 10)
    else none
  v.filter (fun n => n < radix)

/-- The number a digit sequence continues `acc` to. -/
def digitsValue (radix : Nat) (acc : Nat) : List Char → Option Nat
  | [] => some acc
  | c :: cs => (digitValue radix c).bind (fun v => digitsValue radix (acc * radix + v) cs)

/-- A number written with at least one digit. -/
def numberValue (radix : Nat) (cs : List Char) : Option Nat :=
  if cs = [] then none else digitsValue radix 0 cs

/-- The value of `2^k`, `2^k-c` or `2^k+c` (30 R51), given what follows `2^`. A difference below 0 is out of range. -/
def powerLiteral (cs : List Char) : Except AsmError Nat :=
  let isSign := fun c => c == '+' || c == '-'
  let k := numberValue 10 (cs.takeWhile (fun c => !isSign c))
  match k, cs.dropWhile (fun c => !isSign c) with
  | some k, [] => .ok (2 ^ k)
  | some k, sign :: ds =>
    match numberValue 10 ds with
    | none => .error .badOperand
    | some c =>
      if sign = '+' then .ok (2 ^ k + c)
      else if c ≤ 2 ^ k then .ok (2 ^ k - c)
      else .error .literalOutOfRange
  | none, _ => .error .badOperand

/-- The value of a literal (30 R51): hexadecimal, `2^k` with an offset, or decimal. -/
def literalValue (cs : List Char) : Except AsmError Nat :=
  match cs with
  | '0' :: 'x' :: ds => (numberValue 16 ds).elim (.error .badOperand) .ok
  | '2' :: '^' :: ds => powerLiteral ds
  | ds => (numberValue 10 ds).elim (.error .badOperand) .ok

/-- An operand: `$name`, or a literal that lies in `0 .. 2^64-1`. -/
def parseOperand (cs : List Char) : Except AsmError LineOperand :=
  match cs with
  | '$' :: name =>
    if name ≠ [] ∧ name.all isNameChar then .ok (.variable name) else .error .badOperand
  | ds =>
    match literalValue ds with
    | .error e => .error e
    | .ok v => if v < 2 ^ 64 then .ok (.literal (BitVec.ofNat 64 v)) else .error .literalOutOfRange

/-- The operands between commas. -/
def splitCommas : List Char → List (List Char)
  | [] => [[]]
  | c :: cs =>
    if c = ',' then [] :: splitCommas cs
    else match splitCommas cs with
      | [] => [[c]]
      | f :: fs => (c :: f) :: fs

/-- Every operand of a list, or the first error. -/
def parseOperands : List (List Char) → Except AsmError (List LineOperand)
  | [] => .ok []
  | cs :: rest =>
    match parseOperand (trimBlanks cs) with
    | .error e => .error e
    | .ok o =>
      match parseOperands rest with
      | .error e => .error e
      | .ok os => .ok (o :: os)

/-- The command a mnemonic and its operands make (30 R51). -/
def parseCommand (cs : List Char) : Except AsmError LineCommand :=
  let mnemonic := cs.takeWhile (fun c => !isBlank c)
  let operands := parseOperands (splitCommas (cs.dropWhile (fun c => !isBlank c)))
  if mnemonic = "mul_mod".toList then
    match operands with
    | .error e => .error e
    | .ok [a, b, m] => .ok (.mulMod a b m)
    | .ok _ => .error .wrongOperandCount
  else if mnemonic = "pow_mod".toList then
    match operands with
    | .error e => .error e
    | .ok [a, e, m] => .ok (.powMod a e m)
    | .ok _ => .error .wrongOperandCount
  else if mnemonic = "is_probable_prime".toList then
    match operands with
    | .error e => .error e
    | .ok [n] => .ok (.isProbablePrime n)
    | .ok _ => .error .wrongOperandCount
  else .error .unknownMnemonic

/-- One line of text: nothing where it holds only blanks and a comment, else a line of a host program. R53 writes the
binding as `$name = `; DESIGN CHOICE (log 10): the blanks on either side of `=` may be missing or more than one, and
blanks may follow `$`, so `$x=mul_mod 1, 2, 3` and `$ x = mul_mod 1, 2, 3` bind `x` too. -/
def assembleLine (text : List Char) : Except AsmError (Option HostLine) :=
  match trimBlanks (stripComment text) with
  | [] => .ok none
  | '$' :: cs =>
    let name := trimBlanks (cs.takeWhile (fun c => c != '='))
    match cs.dropWhile (fun c => c != '=') with
    | '=' :: rest =>
      if name ≠ [] ∧ name.all isNameChar then
        (parseCommand (trimBlanks rest)).map (fun c => some ⟨some name, c⟩)
      else .error .badBinding
    | _ => .error .badBinding
  | cs => (parseCommand cs).map (fun c => some ⟨none, c⟩)

/-- A whole text, line by line; the first error ends it. -/
def assembleProgram : List (List Char) → Except AsmError (List HostLine)
  | [] => .ok []
  | text :: rest =>
    match assembleLine text, assembleProgram rest with
    | .error e, _ => .error e
    | .ok _, .error e => .error e
    | .ok none, .ok ls => .ok ls
    | .ok (some l), .ok ls => .ok (l :: ls)

/-- One hexadecimal digit, in capitals as the spec writes them. -/
def hexDigit (v : Nat) : Char :=
  if v < 10 then Char.ofNat ('0'.toNat + v) else Char.ofNat ('A'.toNat + (v - 10))

/-- A word as `0x` and `k` hexadecimal digits, the most significant first. -/
def hexDigits (v : Nat) : Nat → List Char
  | 0 => []
  | k + 1 => hexDigit (v / 16 ^ k % 16) :: hexDigits v k

/-- A word as the hexadecimal literal of 16 digits that R51 writes. -/
def renderWord (v : Word) : List Char := '0' :: 'x' :: hexDigits v.toNat 16

/-- A command as a line of text. A command with no line of its own (op 3; ignored fields that are not 0) gives
none (30 R51). -/
def renderLine : Instr → Option (List Char)
  | .mulMod a b m =>
    some ("mul_mod ".toList ++ renderWord a ++ [',', ' '] ++ renderWord b ++ [',', ' '] ++ renderWord m)
  | .powMod a e m =>
    some ("pow_mod ".toList ++ renderWord a ++ [',', ' '] ++ renderWord e ++ [',', ' '] ++ renderWord m)
  | .isProbablePrime n y z =>
    if y = 0 ∧ z = 0 then some ("is_probable_prime ".toList ++ renderWord n) else none
  | .reserved _ _ _ => none

end Sys2Proof.Machine
end

