-- ==== Sys2Proof/Machine/HostProgram.lean ====
section
/-! DEFINITION. A host program running against one block (30_encoding.md R53): for each line the host waits for
`cmd_ready`, performs accept with the line's command word, waits for `rsp_valid`, and reads the response. Host
variables live in the host. -/

namespace Sys2Proof.Machine

/-- The host's variables, the newest binding first. -/
abbrev HostVars := List (VarName × Word)

/-- The value of a variable. -/
def lookupVar (vars : HostVars) (name : VarName) : Option Word :=
  (vars.find? (fun b => b.1 == name)).map (fun b => b.2)

/-- The value of an operand (30 R53). -/
def operandValue (vars : HostVars) : LineOperand → Option Word
  | .literal v => some v
  | .variable name => lookupVar vars name

/-- The command word a line offers; none where an operand's variable is not bound. -/
def lineWord (vars : HostVars) : LineCommand → Option CommandWord
  | .mulMod a b m =>
    match operandValue vars a, operandValue vars b, operandValue vars m with
    | some a, some b, some m => some (encode (.mulMod a b m))
    | _, _, _ => none
  | .powMod a e m =>
    match operandValue vars a, operandValue vars e, operandValue vars m with
    | some a, some e, some m => some (encode (.powMod a e m))
    | _, _, _ => none
  | .isProbablePrime n => (operandValue vars n).map (fun n => encode (.isProbablePrime n 0 0))
  | .raw w => some w

/-- A host and its block. -/
structure HostState where
  /-- the block -/
  block : State
  /-- the lines not issued yet -/
  todo : List HostLine
  /-- the binding of the line whose response the host waits for, if it waits -/
  waiting : Option (Option VarName)
  /-- the host variables -/
  vars : HostVars
  /-- what the host has read at the end of each line, the newest first: `rsp_err`, and `rsp_data` if it has a value -/
  responses : List (BitVec 2 × Option Word)
  deriving DecidableEq, Repr

/-- A host about to run a program on a block. -/
def hostStart (block : State) (program : List HostLine) : HostState := ⟨block, program, none, [], []⟩

/-- The program has ended: nothing is left to issue or to wait for. -/
def hostDone (h : HostState) : Bool := h.todo.isEmpty && h.waiting.isNone

/-- The block takes one step with the given sample on its ports; the host does the rest. -/
def withBlockStep (p : Ports) (h : HostState) (k : State → HostState) :
    Host.Outcome HostState Fault Refusal :=
  match step { h.block with inputs := [p] } with
  | .next b => .next (k b)
  | .fault f => .fault f
  | .refused f => .refused f

/-- The host reads the response (30 R53). A line that binds a variable needs a value: `⊥` gives it none, and the
program has no meaning from there on (10 R27). -/
def hostReads (bind : Option VarName) (h : HostState) : Host.Outcome HostState Fault Refusal :=
  let response := (h.block.rspErr, hostReadData h.block)
  match bind, hostReadData h.block with
  | none, _ => .next { h with waiting := none, responses := response :: h.responses }
  | some name, some v =>
    .next { h with waiting := none, vars := (name, v) :: h.vars, responses := response :: h.responses }
  | some _, none => .refused .hostReadsNoValue

/-- One step of the host and its block. -/
def hostStep (h : HostState) : Host.Outcome HostState Fault Refusal :=
  match h.waiting with
  | some bind =>
    if h.block.rspValid then hostReads bind h
    else withBlockStep releasedPorts h (fun b => { h with block := b })
  | none =>
    match h.todo with
    | [] => .next h
    | line :: rest =>
      if busy h.block then withBlockStep releasedPorts h (fun b => { h with block := b })
      else match lineWord h.vars line.command with
        | none => .refused .hostUnboundVariable
        | some w =>
          withBlockStep (offerPorts w) h
            (fun b => { h with block := b, todo := rest, waiting := some line.bind })

/-- `k` steps of the host and its block. -/
def hostRun : Nat → HostState → Host.Outcome HostState Fault Refusal
  | 0, h => .next h
  | k + 1, h =>
    match hostStep h with
    | .next t => hostRun k t
    | .fault f => .fault f
    | .refused f => .refused f

end Sys2Proof.Machine
end

