-- ==== Sys2Proof/Machine/PowerOn.lean ====
section
/-! DEFINITION. The block from power-on (70_reset_and_hazards.md R112, 92 D26, D27, 93 U4): before the first reset every
register is `⊥` and only the reset transition is enabled. `State` and `step` are the block after that reset. -/

namespace Sys2Proof.Machine

/-- A block since power-on. -/
inductive PoweredBlock where
  /-- powered, never reset: no register has a value; only the coming samples of the ports exist -/
  | neverReset (inputs : List Ports)
  /-- reset at least once -/
  | running (s : State)
  deriving DecidableEq, Repr

/-- One step since power-on. Before the first reset a sample without `rst` has no meaning (70 R112). -/
def poweredStep : PoweredBlock → Host.Outcome PoweredBlock Fault Refusal
  | .neverReset inputs =>
    if (inputs.headD releasedPorts).rst then
      .next (.running { State.reset with inputs := inputs.tail })
    else .refused .beforeFirstReset
  | .running s =>
    match step s with
    | .next t => .next (.running t)
    | .fault f => .fault f
    | .refused f => .refused f

end Sys2Proof.Machine
end

