-- ==== Sys2Proof/Machine/Run.lean ====
section
/-! DEFINITION. Runs of several steps, and the operation counts of 70_reset_and_hazards.md R119 (steps and `mulmod`
evaluations; they are not clock cycles, R118). -/

namespace Sys2Proof.Machine

/-- `k` steps, stopping at the first step that has no next state. -/
def run : Nat → State → Host.Outcome State Fault Refusal
  | 0, s => .next s
  | k + 1, s =>
    match step s with
    | .next t => run k t
    | .fault f => .fault f
    | .refused f => .refused f

/-- How many times one exponentiation step evaluates `mulmod` (41 R68, R73). -/
def mexpMulmods (s : State) : Nat := if s.xe = 0 then 0 else if lowBit s.xe then 2 else 1

/-- How many times one step evaluates `mulmod` (40 R60, 41 R73, 42 R95): only the controller's steps of four phases
do, and none while reset is asserted. -/
def mulmodsInStep (s : State) : Nat :=
  if (sampleOf s).rst then 0
  else match s.phase with
    | .mmExec => 1
    | .pmLoop => mexpMulmods s
    | .ipPow => mexpMulmods s
    | .ipSquare => if s.r.toNat ≤ s.sq.toNat + 1 then 0 else 1
    | .idle => 0
    | .ipRange => 0
    | .ipTrial => 0
    | .ipDecomp => 0
    | .ipBase => 0
    | .ipCheck => 0

/-- How many times `k` steps evaluate `mulmod`. -/
def mulmodsInRun : Nat → State → Nat
  | 0, _ => 0
  | k + 1, s =>
    mulmodsInStep s +
      match step s with
      | .next t => mulmodsInRun k t
      | .fault _ => 0
      | .refused _ => 0

end Sys2Proof.Machine
end

