-- ==== Sys2Proof/Machine/System.lean ====
section
/-! DEFINITION. Several independent blocks (60_exceptions.md R108, 70 R120): N_INST separate copies of the state,
each with its own ports; they share nothing but the constant tables, which nothing writes. -/

namespace Sys2Proof.Machine

/-- The blocks of a system; `N_INST` is the list's length. -/
abbrev Blocks := List State

/-- Every block right after reset. -/
def resetBlocks (nInst : Nat) : Blocks := List.replicate nInst State.reset

/-- Block `k` takes one step. -/
def stepBlockAt (k : Nat) (bs : Blocks) : Host.Outcome Blocks Fault Refusal :=
  match bs[k]? with
  | none => .refused .noSuchBlock
  | some s =>
    match step s with
    | .next t => .next (bs.set k t)
    | .fault f => .fault f
    | .refused f => .refused f

end Sys2Proof.Machine
end

