-- ==== Sys2Proof/Safety.lean ====
section
/-! DEFINITION. What claims are stated with: the invariant of the reachable states (10_state.md R18, R19, R21, R27,
42_miller_rabin_test.md R81), runs that no reset disturbs, the edges of `PHASE` (10 R121), and the response and
the cost of a command (30 R50, 70 R119). -/

namespace Sys2Proof.Machine

/-- No sample of the next `k` steps asserts `rst`. -/
abbrev NoResetFor (k : Nat) (s : State) : Prop := ∀ p ∈ s.inputs.take k, p.rst = false

/-- The indices and the squaring count stay in their ranges (10 R18, R19). -/
abbrev IndicesInRange (s : State) : Prop := s.pi.toNat ≤ 11 ∧ s.bi.toNat ≤ 6 ∧ s.sq.toNat ≤ 62

/-- The response registers agree: code 3 never stands there (10 R11); a code stands only in a response, and leaves
`err_sticky` set (R12); `rsp_data` has a value exactly in a response without a code (R27); no response stands while
a command runs (70 R115). -/
abbrev ResponseConsistent (s : State) : Prop :=
  s.rspErr ≠ 3 ∧ (s.rspErr ≠ 0 → s.rspValid = true ∧ s.errSticky = true)
    ∧ (s.rspData.isSome = true ↔ s.rspValid = true ∧ s.rspErr = 0)
    ∧ (busy s = true → s.rspValid = false)

/-- `n` passed the range check and trial division (42 R81). -/
abbrev PassedTrialDivision (n : Word) : Prop :=
  41 ≤ n.toNat ∧ ∀ p ∈ smallPrimes, n.toNat % p.toNat ≠ 0

/-- `D`, `R` hold the decomposition of `n - 1` (42 R80, R81): `n - 1 = D * 2^R`, `D` odd, `R >= 1`. -/
abbrev Decomposed (s : State) : Prop :=
  lowBit s.d = true ∧ 1 ≤ s.r.toNat ∧ s.d.toNat * 2 ^ s.r.toNat + 1 = s.cx.toNat

/-- What holds in each phase (10 R21, 42 R81). -/
def PhaseInvariant (s : State) : Prop :=
  match s.phase with
  | .idle => True
  | .mmExec => s.cz ≠ 0
  | .pmLoop => s.xm = s.cz ∧ s.xr < s.xm
  | .ipRange => True
  | .ipTrial => 2 ≤ s.cx.toNat ∧ ∀ p ∈ smallPrimes.take s.pi.toNat, s.cx.toNat % p.toNat ≠ 0
  | .ipDecomp => PassedTrialDivision s.cx ∧ s.d.toNat * 2 ^ s.r.toNat + 1 = s.cx.toNat
  | .ipBase => PassedTrialDivision s.cx ∧ Decomposed s
  | .ipPow => PassedTrialDivision s.cx ∧ Decomposed s ∧ s.xm = s.cx ∧ s.xr < s.xm
  | .ipCheck => PassedTrialDivision s.cx ∧ Decomposed s ∧ s.x < s.cx
  | .ipSquare => PassedTrialDivision s.cx ∧ Decomposed s ∧ s.x < s.cx ∧ s.sq.toNat + 1 ≤ s.r.toNat

/-- The invariant of the block. -/
def StateInvariant (s : State) : Prop := IndicesInRange s ∧ ResponseConsistent s ∧ PhaseInvariant s

/-- The edges of `PHASE` without reset (10 R121, columns From and To), and the idle block that accepts nothing. Reset's
own edges (every phase to `IDLE`) stand apart: `IP_DECOMP` and `IP_POW` reach `IDLE` by reset only. -/
def phaseEdges : List (Phase × Phase) :=
  [(.idle, .idle), (.idle, .mmExec), (.idle, .pmLoop), (.idle, .ipRange),
   (.mmExec, .idle),
   (.pmLoop, .pmLoop), (.pmLoop, .idle),
   (.ipRange, .idle), (.ipRange, .ipTrial),
   (.ipTrial, .idle), (.ipTrial, .ipTrial), (.ipTrial, .ipDecomp),
   (.ipDecomp, .ipDecomp), (.ipDecomp, .ipBase),
   (.ipBase, .ipPow), (.ipBase, .ipBase), (.ipBase, .idle),
   (.ipPow, .ipPow), (.ipPow, .ipCheck),
   (.ipCheck, .ipBase), (.ipCheck, .idle), (.ipCheck, .ipSquare),
   (.ipSquare, .idle), (.ipSquare, .ipSquare), (.ipSquare, .ipBase)]

/-- The operation code of the command a phase belongs to (10 R16, R121); none for `IDLE`. -/
def phaseCommand : Phase → Option (BitVec 2)
  | .idle => none
  | .mmExec => some 0
  | .pmLoop => some 1
  | .ipRange | .ipTrial | .ipDecomp | .ipBase | .ipPow | .ipCheck | .ipSquare => some 2

/-- The response a command ends with: `rsp_err`, and the result over the integers where it has one (30 R50,
40 R61, 41 R75, 42 R90, 60 R96, R97). -/
def commandResponse : Instr → BitVec 2 × Option Word
  | .mulMod a b m =>
    if m = 0 then (2, none) else (0, some (BitVec.ofNat 64 (a.toNat * b.toNat % m.toNat)))
  | .powMod a e m =>
    if m = 0 then (2, none) else (0, some (BitVec.ofNat 64 (a.toNat ^ e.toNat % m.toNat)))
  | .isProbablePrime n _ _ => (0, some (verdictWord (verdict n)))
  | .reserved _ _ _ => (1, none)

/-- The controller steps a command takes after accept (70 R119): exact, but for the upper bound 546 of
`is_probable_prime`. -/
def commandSteps : Instr → Nat
  | .mulMod _ _ m => if m = 0 then 0 else 1
  | .powMod _ e m => if m = 0 then 0 else bitlen e + 1
  | .isProbablePrime _ _ _ => 546
  | .reserved _ _ _ => 0

/-- A safe run of `k` steps: it has a next state throughout, and no fault is recorded at its end (10 R12, 60 R104). -/
def SafeRun (k : Nat) (s : State) : Prop := ∃ t, run k s = .next t ∧ t.errSticky = false

end Sys2Proof.Machine
end

