-- ==== Sys2Proof/Certificates/Slice0/Obligations.lean ====
section
/-! DEFINITION. The statements for the provers. Each docstring names the rules of spec/ it formalises; a statement that
rests on a choice of the model says so and names the log entry. `exec i s` is the host's accept of command `i`
(30_encoding.md R49); the controller's steps follow by `run`. -/

open Sys2Proof Sys2Proof.Machine

/-! ### Encoding -/

/-- 30 R42, R44, R46: encoding drops no bit of any operand of any command. -/
def Obligations.DecodeOfEncode : Prop := ∀ i : Instr, decode (encode i) = i

/-- 30 R48: every one of the `2^194` command words is the word of exactly one command. -/
def Obligations.EncodeOfDecode : Prop :=
  ∀ w : CommandWord, encode (decode w) = w ∧ ∀ i, encode i = w → i = decode w

/-- 30 R46, R48: every command word matches exactly one row of the opcode table, the row of the command it decodes
to. -/
def Obligations.EveryWordMatchesExactlyOneRow : Prop :=
  ∀ w : CommandWord, ∃ row ∈ opcodeTable, mnemonicOf (decode w) = row.mnemonic ∧
    ∀ row' ∈ opcodeTable, (w &&& row'.mask = row'.pattern ↔ row' = row)

/-- 95_test_vectors.md section 2 (30 R42, R46, R51): the words the spec writes out decode to the commands it names. -/
def Obligations.WordsOfTheSpecDecode : Prop :=
  decode 0x0000000000000000300000000000000050000000000000007 = .mulMod 3 5 7 ∧
  decode 0x1000000000000000300000000000000050000000000000007 = .powMod 3 5 7 ∧
  decode 0x2000000000000023100000000000000000000000000000000 = .isProbablePrime 561 0 0 ∧
  decode 0x100000000000000021FFFFFFFFFFFFFFE1FFFFFFFFFFFFFFF =
    .powMod 2 0x1FFFFFFFFFFFFFFE 0x1FFFFFFFFFFFFFFF ∧
  decode 0x2FFFFFFFFFFFFFFC500000000000000000000000000000000 = .isProbablePrime 0xFFFFFFFFFFFFFFC5 0 0 ∧
  decode 0x3000000000000000100000000000000020000000000000000 = .reserved 1 2 0

/-! ### The step around exec, reset, the handshake -/

/-- 30 R49, R54: an idle block that is offered a command, with `rst` low, runs exactly `exec` of the command the word
on the ports decodes to; the step takes the sample of the ports and does nothing else.
The second clause is the MODEL'S CHOICE and no rule of the spec (log 12; the range of `w` is log 13): it says the same of
the word `State.withFetchWord` places, which makes even a busy block idle, as no host can (70 R111, R113). -/
def Obligations.StepRunsTheOfferedCommand : Prop :=
  (∀ (s : State) (i : Instr), s.phase = .idle → (sampleOf s).rst = false → (sampleOf s).cmdValid = true →
    decode (portsWord (sampleOf s)) = i → i.WellFormed → step s = exec i { s with inputs := s.inputs.tail }) ∧
  (∀ (s : State) (nbits w : Nat) (i : Instr), decodeTableWord nbits w = some i →
    step (s.withFetchWord nbits w) = exec i { s with phase := .idle, inputs := s.inputs.tail })

/-- 10 R28 (the values the spec gives): the block right after reset is idle, shows no response, no code, no sticky
error, and `rsp_data` has no value; its outputs are those of 95 section 5, first row. -/
def Obligations.ResetStateIsIdleWithoutResponse : Prop :=
  State.reset.phase = .idle ∧ State.reset.rspValid = false ∧ State.reset.rspErr = 0 ∧
  State.reset.errSticky = false ∧ State.reset.rspData = none ∧
  outputs State.reset = ⟨true, false, false, 0, none, false⟩

/-- 70 R111: reset has priority over accept and over the controller's step, in every phase: the command in progress
gives no response, and `err_sticky` is cleared; `cmd_ready` is 0 while `rst` is 1. -/
def Obligations.ResetHasPriority : Prop :=
  ∀ s : State, (sampleOf s).rst = true →
    cmdReady s = false ∧
    ∃ t, step s = .next t ∧ t.phase = .idle ∧ t.rspValid = false ∧ t.rspErr = 0 ∧ t.errSticky = false ∧
      t.rspData = none ∧ t.inputs = s.inputs.tail

/-- 70 R116, 20 R41: while no command is accepted and no reset occurs, an idle block keeps everything. -/
def Obligations.IdleBlockKeepsItsResponse : Prop :=
  ∀ s : State, s.phase = .idle → (sampleOf s).rst = false → (sampleOf s).cmdValid = false →
    step s = .next { s with inputs := s.inputs.tail }

/-- 70 R113, R114: while `cmd_ready` is 0 (the block is busy, or in reset) the command ports are not looked at:
whatever they carry, the step is the same, so a command offered then changes nothing, is not queued and is not
remembered, and cannot disturb the command in progress. -/
def Obligations.CommandPortsAreIgnoredWhenNotReady : Prop :=
  ∀ (s : State) (p q : Ports) (rest : List Ports), cmdReady { s with inputs := p :: rest } = false → q.rst = p.rst →
    step { s with inputs := p :: rest } = step { s with inputs := q :: rest }

/-- 70 R113: a command offered to a busy block is not taken and changes no state. -/
def Obligations.CommandOfferedWhileBusyChangesNothing : Prop :=
  ∀ (i : Instr) (s : State), busy s = true → exec i s = .next s

/-! ### Accept, command by command: the whole next state (result and frame) -/

/-- 30 R49, 40 R59: an idle block takes `mul_mod` with `m != 0`: the latches are written, the response is emptied, and
`PHASE` becomes `MM_EXEC`; nothing else changes. -/
def Obligations.MulModIsAccepted : Prop :=
  ∀ (a b m : Word) (s : State), s.phase = .idle → m ≠ 0 →
    exec (.mulMod a b m) s = .next { s with
      op := 0, cx := a, cy := b, cz := m, rspValid := false, rspErr := 0, rspData := none, phase := .mmExec }

/-- 30 R49, 41 R72: an idle block takes `pow_mod` with `m != 0`: beside the latches it loads `XR <- 1 mod m` (0 when
`m = 1`), `XB <- a`, `XE <- e`, `XM <- m`; nothing else changes. -/
def Obligations.PowModIsAccepted : Prop :=
  ∀ (a e m : Word) (s : State), s.phase = .idle → m ≠ 0 →
    exec (.powMod a e m) s = .next { s with
      op := 1, cx := a, cy := e, cz := m, rspValid := false, rspErr := 0, rspData := none,
      xr := if m = 1 then 0 else 1, xb := a, xe := e, xm := m, phase := .pmLoop }

/-- 30 R45, R49, 42 R76: an idle block takes `is_probable_prime` whatever its three fields hold. -/
def Obligations.IsProbablePrimeIsAccepted : Prop :=
  ∀ (n y z : Word) (s : State), s.phase = .idle →
    exec (.isProbablePrime n y z) s = .next { s with
      op := 2, cx := n, cy := y, cz := z, rspValid := false, rspErr := 0, rspData := none, phase := .ipRange }

/-- 60 R97, R98, R103: the reserved code ends at once with IllegalCommand for every `x`, `y`, `z`, a zero `z` included
(R102); no working register changes. -/
def Obligations.ReservedCodeEndsWithIllegalCommand : Prop :=
  ∀ (x y z : Word) (s : State), s.phase = .idle →
    exec (.reserved x y z) s = .next { s with
      op := 3, cx := x, cy := y, cz := z, rspValid := true, rspErr := 1, rspData := none, errSticky := true }

/-- 60 R96, R98, R103: a zero modulus ends `mul_mod` and `pow_mod` at once with ModulusZero, whatever the other operands
(`e = 0` included); no working register changes. `is_probable_prime` never raises it: its `z` field is ignored. -/
def Obligations.ZeroModulusEndsWithModulusZero : Prop :=
  ∀ (a b : Word) (s : State), s.phase = .idle →
    exec (.mulMod a b 0) s = .next { s with
      op := 0, cx := a, cy := b, cz := 0, rspValid := true, rspErr := 2, rspData := none, errSticky := true } ∧
    exec (.powMod a b 0) s = .next { s with
      op := 1, cx := a, cy := b, cz := 0, rspValid := true, rspErr := 2, rspData := none, errSticky := true } ∧
    ∃ t, exec (.isProbablePrime a b 0) s = .next t ∧ t.rspErr = 0 ∧ t.errSticky = s.errSticky ∧ busy t = true

/-- 60 R104: the accept of a command inside its domain clears an earlier fault's code and response; `err_sticky` keeps
its value. -/
def Obligations.NextAcceptClearsTheFaultCode : Prop :=
  ∀ (i : Instr) (s : State), s.phase = .idle → i.InDomain →
    ∃ t, exec i s = .next t ∧ t.rspErr = 0 ∧ t.rspValid = false ∧ t.errSticky = s.errSticky ∧ busy t = true

/-! ### Commands run to their end -/

/-- 40 R59, R60: `mul_mod a, b, m` with `m != 0` goes to `MM_EXEC`, takes exactly one controller step there, and
answers `(a*b) mod m` over the integers; `err_sticky` and the working registers are unchanged. In every state, the step
of `MM_EXEC` is `complete(mulmod(CX, CY, CZ))`. -/
def Obligations.MulModAnswersTheProductModM : Prop :=
  (∀ (a b m : Word) (s : State), s.phase = .idle → m ≠ 0 → NoResetFor 1 s →
    ∃ t u v, exec (.mulMod a b m) s = .next t ∧ t.phase = .mmExec ∧ run 1 t = .next u ∧
      v.toNat = a.toNat * b.toNat % m.toNat ∧
      u = { s with op := 0, cx := a, cy := b, cz := m, rspValid := true, rspErr := 0, rspData := some v,
                   inputs := s.inputs.tail }) ∧
  ∀ s : State, s.phase = .mmExec → s.cz ≠ 0 → (sampleOf s).rst = false →
    step s = .next { s with
      rspData := some (mulmod s.cx s.cy s.cz), rspErr := 0, rspValid := true, phase := .idle, inputs := s.inputs.tail }

/-- 41 R72, R73, R74: `pow_mod a, e, m` with `m != 0` is busy, without a response, for `bitlen(e)` steps, and after
`bitlen(e) + 1` steps answers `a^e mod m` over the integers; `err_sticky`, the latches' operands and MRT's registers
are unchanged. -/
def Obligations.PowModAnswersThePowerModM : Prop :=
  ∀ (a e m : Word) (s : State), s.phase = .idle → m ≠ 0 → NoResetFor (bitlen e + 1) s →
    ∃ t, exec (.powMod a e m) s = .next t ∧
      (∀ k ≤ bitlen e, ∃ u, run k t = .next u ∧ busy u = true ∧ u.rspValid = false) ∧
      ∃ u v, run (bitlen e + 1) t = .next u ∧ v.toNat = a.toNat ^ e.toNat % m.toNat ∧
        u.phase = .idle ∧ u.rspValid = true ∧ u.rspErr = 0 ∧ u.rspData = some v ∧
        u.errSticky = s.errSticky ∧ u.op = 1 ∧ u.cx = a ∧ u.cy = e ∧ u.cz = m ∧ u.xm = m ∧
        u.d = s.d ∧ u.r = s.r ∧ u.x = s.x ∧ u.pi = s.pi ∧ u.bi = s.bi ∧ u.sq = s.sq

/-- 42 R76, R90: `is_probable_prime n` ends after at most 546 steps, busy and without a response until then, and
answers `zext_64(verdict(n))`: the small-step controller agrees with the big-step function for every `n`. -/
def Obligations.IsProbablePrimeAnswersTheVerdict : Prop :=
  ∀ (n y z : Word) (s : State), s.phase = .idle → NoResetFor 546 s →
    ∃ t k u, exec (.isProbablePrime n y z) s = .next t ∧ k ≤ 546 ∧ run k t = .next u ∧
      (∀ j < k, ∃ v, run j t = .next v ∧ busy v = true ∧ v.rspValid = false) ∧
      u.phase = .idle ∧ u.rspValid = true ∧ u.rspErr = 0 ∧
      u.rspData = some (if verdict n then 1 else 0) ∧
      u.errSticky = s.errSticky ∧ u.op = 2 ∧ u.cx = n ∧ u.cy = y ∧ u.cz = z

/-- 41 R68, 70 R119: `pow_mod` evaluates `mulmod` exactly `bitlen(e) + popcount(e)` times, at most 128. -/
def Obligations.PowModOperationCount : Prop :=
  ∀ (a e m : Word) (s : State), s.phase = .idle → m ≠ 0 → NoResetFor (bitlen e + 1) s →
    ∃ t, exec (.powMod a e m) s = .next t ∧
      mulmodsInRun (bitlen e + 1) t = bitlen e + popcount e ∧ bitlen e + popcount e ≤ 128

/-- 42 R85, R95: a whole `is_probable_prime` command evaluates `mulmod` at most 882 times: whatever the host drives while
the command runs, and for ever where the ports are released. In every state, `IP_POW` from the exponent `XE` on evaluates
it `bitlen(XE) + popcount(XE)` times, and a step of `IP_SQUARE` once where it squares (`SQ + 1 < R`), else not. -/
def Obligations.IsProbablePrimeOperationBound : Prop :=
  (∀ (n y z : Word) (s : State), s.phase = .idle →
    ∃ t, exec (.isProbablePrime n y z) s = .next t ∧
      (∀ k, (∀ j < k, ∃ u, run j t = .next u ∧ busy u = true) → mulmodsInRun k t ≤ 882) ∧
      (s.inputs = [] → ∀ k, mulmodsInRun k t ≤ 882)) ∧
  (∀ s : State, s.phase = .ipPow → s.xm ≠ 0 → NoResetFor (bitlen s.xe + 1) s →
    mulmodsInRun (bitlen s.xe + 1) s = bitlen s.xe + popcount s.xe) ∧
  ∀ s : State, s.phase = .ipSquare → (sampleOf s).rst = false →
    mulmodsInStep s = if s.sq.toNat + 1 < s.r.toNat then 1 else 0

/-! ### widening_multiplier -/

/-- 40 R61: the laws of `mulmod` for `m > 0`, and the two inputs that separate it from a truncating multiplier. -/
def Obligations.MulmodLaws : Prop :=
  (∀ a b m : Word, m ≠ 0 →
    (mulmod a b m).toNat = a.toNat * b.toNat % m.toNat ∧ mulmod a b m < m ∧
    mulmod a b m = mulmod b a m ∧ mulmod a b m = mulmod (a % m) (b % m) m ∧
    mulmod a b 1 = 0 ∧ mulmod 0 b m = 0 ∧ mulmod 1 b m = b % m) ∧
  mulmod 0x100000000 0x100000000 0xFFFFFFFFFFFFFFFF = 1 ∧
  mulmod 0xFFFFFFFFFFFFFFFF 0xFFFFFFFFFFFFFFFF 0xFFFFFFFFFFFFFFC5 = 3364

/-- 40 R56: the product is the exact integer product: it never overflows 128 bits. -/
def Obligations.ProductNeverOverflows : Prop :=
  ∀ a b : Word, (product a b).toNat = a.toNat * b.toNat

/-- 40 R62, R63: four 32x32 partial products with carry propagation, and separate high and low halves, give the
product of R56 bit for bit. -/
def Obligations.ProductRealisationsAgree : Prop :=
  ∀ (c : WmulRealisation) (a b : Word), productBy c a b = product a b

/-- 40 R64, which the spec marks informative and from general knowledge, and which no step of the model calls (log 8):
bit-serial restoring division gives the remainder of R57, for every 128-bit `P` and every `m > 0`; after every `j` of its
steps the partial remainder is below `m`. -/
def Obligations.RestoringDivisionIsExact : Prop :=
  ∀ (p : Product) (m : Word), m ≠ 0 →
    (reduceRestoring p m).toNat = p.toNat % m.toNat ∧
    ∀ j : Nat, ∀ rem : BitVec 65, rem < m.setWidth 65 → restoringLoop p m j rem < m.setWidth 65

/-- 40 R57, R62, 92 D19: whatever realisation an implementation chooses, `mulmod` has the same value. -/
def Obligations.MulmodIndependentOfRealisation : Prop :=
  ∀ (c : WmulConfig) (a b m : Word), m ≠ 0 → mulmodBy c a b m = mulmod a b m

/-! ### modular_exponentiator -/

/-- 41 R75: `powmod(a,e,m) = a^e mod m` over the integers, below `m`, for all 64-bit `a`, `e` and `m > 0`. -/
def Obligations.PowmodIsExact : Prop :=
  ∀ a e m : Word, m ≠ 0 →
    (powmod a e m).toNat = a.toNat ^ e.toNat % m.toNat ∧ powmod a e m < m

/-- 41 R75: the exponent law, and reduction of the base. -/
def Obligations.PowmodExponentLaw : Prop :=
  ∀ a e f m : Word, m ≠ 0 →
    powmod a e m = powmod (a % m) e m ∧
    (e.toNat + f.toNat < 2 ^ 64 → powmod a (e + f) m = mulmod (powmod a e m) (powmod a f m) m)

/-- 41 R69, R70, 90 C2: exponent 0 gives `1 mod m`, also for base 0; modulus 1 gives 0, also for exponent 0. -/
def Obligations.PowmodCornerCases : Prop :=
  (∀ a m : Word, m ≠ 0 → powmod a 0 m = if m = 1 then 0 else 1) ∧ ∀ a e : Word, powmod a e 1 = 0

/-- 41 R71, R73: after `k` iterations of `mexp_iter` the base is `XB^(2^k) mod m`, the result has been multiplied by the
base to the low `k` bits of the exponent, the exponent is shifted by `k`, and `XM` is as it was; after one or more
iterations `XB < XM` (10 R21). On one multiplier, multiplying first and squaring second, an iteration is the same
(41 R67). -/
def Obligations.IterationsOfTheExponentiator : Prop :=
  (∀ (k : Nat) (s : State), s.xm ≠ 0 → s.xr < s.xm →
    (mexpIter^[k] s).xr.toNat = s.xr.toNat * s.xb.toNat ^ (s.xe.toNat % 2 ^ k) % s.xm.toNat ∧
    (0 < k → (mexpIter^[k] s).xb.toNat = s.xb.toNat ^ 2 ^ k % s.xm.toNat ∧ (mexpIter^[k] s).xb < s.xm) ∧
    (mexpIter^[k] s).xe.toNat = s.xe.toNat / 2 ^ k ∧ (mexpIter^[k] s).xm = s.xm) ∧
  ∀ s : State, mexpSquare (mexpMultiply s) = mexpIter s

/-- 41 R73: the step of `PM_LOOP`: with `XE` 0 the command ends with `XR`, else one iteration, which reads the registers
as they are before the step. -/
def Obligations.PowModLoopStep : Prop :=
  ∀ s : State, s.phase = .pmLoop → (sampleOf s).rst = false →
    (s.xe = 0 → step s = .next { s with
      rspData := some s.xr, rspErr := 0, rspValid := true, phase := .idle, inputs := s.inputs.tail }) ∧
    (s.xe ≠ 0 → s.xm ≠ 0 → step s = .next { s with
      xr := if s.xe.getLsbD 0 then mulmod s.xr s.xb s.xm else s.xr,
      xb := mulmod s.xb s.xb s.xm, xe := s.xe >>> 1, inputs := s.inputs.tail })

/-! ### miller_rabin_test, phase by phase -/

/-- 42 R78: `IP_RANGE` is entered by the accept of `is_probable_prime`; its step ends the command with 0 for `n < 2`, in
one step and without reading a table, and otherwise goes to `IP_TRIAL` with `PI` 0. -/
def Obligations.RangeCheckStep : Prop :=
  (∀ (n y z : Word) (s : State), s.phase = .idle →
    ∃ t, exec (.isProbablePrime n y z) s = .next t ∧ t.phase = .ipRange ∧ t.cx = n) ∧
  ∀ s : State, s.phase = .ipRange → (sampleOf s).rst = false →
    (s.cx.toNat < 2 → step s = .next { s with
      rspData := some 0, rspErr := 0, rspValid := true, phase := .idle, inputs := s.inputs.tail }) ∧
    (2 ≤ s.cx.toNat → step s = .next { s with pi := 0, phase := .ipTrial, inputs := s.inputs.tail })

/-- 42 R79: the step of `IP_TRIAL` on table entry `p = SMALL_PRIME[PI]`. -/
def Obligations.TrialDivisionStep : Prop :=
  ∀ (s : State) (p : Word), s.phase = .ipTrial → (sampleOf s).rst = false →
    smallPrimes[s.pi.toNat]? = some p →
    (s.cx.toNat % p.toNat = 0 → step s = .next { s with
      rspData := some (if s.cx = p then 1 else 0), rspErr := 0, rspValid := true, phase := .idle,
      inputs := s.inputs.tail }) ∧
    (s.cx.toNat % p.toNat ≠ 0 → s.pi = 11 → step s = .next { s with
      d := s.cx - 1, r := 0, phase := .ipDecomp, inputs := s.inputs.tail }) ∧
    (s.cx.toNat % p.toNat ≠ 0 → s.pi ≠ 11 → step s = .next { s with
      pi := s.pi + 1, inputs := s.inputs.tail })

/-- 42 R80: the step of `IP_DECOMP`; `R` is below 63 wherever a halving is due (10 R19; the model stops by name
otherwise, log 5). -/
def Obligations.DecompositionStep : Prop :=
  ∀ s : State, s.phase = .ipDecomp → (sampleOf s).rst = false →
    (s.d.getLsbD 0 = false → s.r ≠ 63 → step s = .next { s with
      d := s.d >>> 1, r := s.r + 1, inputs := s.inputs.tail }) ∧
    (s.d.getLsbD 0 = true → step s = .next { s with
      bi := 0, phase := .ipBase, inputs := s.inputs.tail })

/-- 42 R83, R84: in every state the invariant allows, `IP_BASE` skips no base: it loads `XR <- 1`, `XB <- BASE[BI]`,
`XE <- D`, `XM <- n` and goes to `IP_POW`. -/
def Obligations.BaseSelectionNeverSkips : Prop :=
  ∀ s : State, StateInvariant s → s.phase = .ipBase → (sampleOf s).rst = false →
    ∃ a, bases[s.bi.toNat]? = some a ∧ step s = .next { s with
      xr := 1, xb := a, xe := s.d, xm := s.cx, phase := .ipPow, inputs := s.inputs.tail }

/-- 42 R85: the step of `IP_POW`. -/
def Obligations.WitnessPowerStep : Prop :=
  ∀ s : State, s.phase = .ipPow → (sampleOf s).rst = false →
    (s.xe = 0 → step s = .next { s with x := s.xr, phase := .ipCheck, inputs := s.inputs.tail }) ∧
    (s.xe ≠ 0 → s.xm ≠ 0 → step s = .next { s with
      xr := if s.xe.getLsbD 0 then mulmod s.xr s.xb s.xm else s.xr,
      xb := mulmod s.xb s.xb s.xm, xe := s.xe >>> 1, inputs := s.inputs.tail })

/-- 42 R86, R88: the step of `IP_CHECK`: `X` equal to 1 or `n-1` ends the base's turn (the last base ends the command
with 1), anything else goes on to squaring. -/
def Obligations.FirstCheckStep : Prop :=
  ∀ s : State, s.phase = .ipCheck → (sampleOf s).rst = false →
    (s.x.toNat = 1 ∨ s.x.toNat + 1 = s.cx.toNat →
      (s.bi.toNat < 6 → step s = .next { s with
        bi := s.bi + 1, phase := .ipBase, inputs := s.inputs.tail }) ∧
      (s.bi = 6 → step s = .next { s with
        rspData := some 1, rspErr := 0, rspValid := true, phase := .idle, inputs := s.inputs.tail })) ∧
    (¬ (s.x.toNat = 1 ∨ s.x.toNat + 1 = s.cx.toNat) → step s = .next { s with
      sq := 0, phase := .ipSquare, inputs := s.inputs.tail })

/-- 42 R87, R88: the step of `IP_SQUARE`: after `r-1` squarings the base fails and the command ends with 0; otherwise
one squaring, and reaching `n-1` ends the base's turn. -/
def Obligations.SquaringStep : Prop :=
  ∀ s : State, s.phase = .ipSquare → (sampleOf s).rst = false → s.cx ≠ 0 →
    (s.r.toNat ≤ s.sq.toNat + 1 → step s = .next { s with
      rspData := some 0, rspErr := 0, rspValid := true, phase := .idle, inputs := s.inputs.tail }) ∧
    (s.sq.toNat + 1 < s.r.toNat →
      ((mulmod s.x s.x s.cx).toNat + 1 ≠ s.cx.toNat → step s = .next { s with
        x := mulmod s.x s.x s.cx, sq := s.sq + 1, inputs := s.inputs.tail }) ∧
      ((mulmod s.x s.x s.cx).toNat + 1 = s.cx.toNat → s.bi.toNat < 6 → step s = .next { s with
        x := mulmod s.x s.x s.cx, sq := s.sq + 1, bi := s.bi + 1, phase := .ipBase,
        inputs := s.inputs.tail }) ∧
      ((mulmod s.x s.x s.cx).toNat + 1 = s.cx.toNat → s.bi = 6 → step s = .next { s with
        x := mulmod s.x s.x s.cx, sq := s.sq + 1,
        rspData := some 1, rspErr := 0, rspValid := true, phase := .idle, inputs := s.inputs.tail }))

/-! ### miller_rabin_test, the functions -/

/-- 42 R80, R81: for an odd `n >= 3`, `decompose` gives `n - 1 = d * 2^r` with `d` odd and `1 <= r <= 63`. -/
def Obligations.DecompositionIsExact : Prop :=
  ∀ n : Word, 3 ≤ n.toNat → n.toNat % 2 = 1 →
    (decompose n).1.toNat * 2 ^ (decompose n).2 + 1 = n.toNat ∧ (decompose n).1.toNat % 2 = 1 ∧
    1 ≤ (decompose n).2 ∧ (decompose n).2 ≤ 63

/-- 42 R81: a candidate that trial division does not decide is odd, at least 41, and larger than every base. -/
def Obligations.UndecidedCandidatesAreAtLeast41 : Prop :=
  ∀ n : Word, 2 ≤ n.toNat → trialDivision n smallPrimes = none →
    41 ≤ n.toNat ∧ n.toNat % 2 = 1 ∧ ∀ a ∈ bases, a < n ∧ baseSkipped n a = false

/-- 42 R82: the strong probable-prime check means: `a^d` is 1 modulo `n`, or `a^(d*2^j)` is `n-1` modulo `n` for some
`j < r`. -/
def Obligations.StrongCheckMeaning : Prop :=
  ∀ (n d a : Word) (r : Nat), 2 ≤ n.toNat → 1 ≤ r →
    (sprp n d r a = true ↔
      a.toNat ^ d.toNat % n.toNat = 1 ∨
      ∃ j < r, a.toNat ^ (d.toNat * 2 ^ j) % n.toNat = n.toNat - 1)

/-- 42 R91: what the verdict is. -/
def Obligations.VerdictMeaning : Prop :=
  ∀ n : Word, verdict n = true ↔
    2 ≤ n.toNat ∧ (n ∈ smallPrimes ∨
      ((∀ p ∈ smallPrimes, n.toNat % p.toNat ≠ 0) ∧
        ∀ a ∈ bases, sprp n (decompose n).1 (decompose n).2 a = true))

/-- 42 R92, R93: 0 and 1 are not prime; the twelve small primes are prime; every other multiple of one is not. -/
def Obligations.SmallPrimesAndTheirMultiples : Prop :=
  (∀ n : Word, n.toNat < 2 → verdict n = false) ∧
  ∀ p ∈ smallPrimes, verdict p = true ∧
    ∀ n : Word, n.toNat % p.toNat = 0 → n ≠ p → verdict n = false

/-- 42 R91, 93 G1: the block never calls a prime "not prime". -/
def Obligations.PrimesAreNeverRejected : Prop :=
  ∀ n : Word, n.toNat.Prime → verdict n = true

/-- 42 R91, 90 C1: the block calls two composites "prime": the source's claim of determinism is no rule. -/
def Obligations.TwoCompositesAreCalledPrime : Prop :=
  verdict 341550071728321 = true ∧ 341550071728321 = 10670053 * 32010157 ∧
  verdict 3825123056546413051 = true ∧ 3825123056546413051 = 149491 * 747451 * 34233211

/-! ### The constant tables -/

/-- 20 R30, R32, R34: the tables' contents; a read past a table reads nothing; `SMALL_PRIME` holds exactly the primes
below 40. -/
def Obligations.ConstantTables : Prop :=
  (List.range 12).map (fun i => (romRead .smallPrime i).map BitVec.toNat) =
    [2, 3, 5, 7, 11, 13, 17, 19, 23, 29, 31, 37].map some ∧
  (List.range 7).map (fun i => (romRead .base i).map BitVec.toNat) = [2, 3, 5, 7, 11, 13, 17].map some ∧
  (∀ i, 12 ≤ i → romRead .smallPrime i = none) ∧ (∀ i, 7 ≤ i → romRead .base i = none) ∧
  ∀ p < 40, p.Prime ↔ BitVec.ofNat 64 p ∈ smallPrimes

/-! ### Rules of the whole machine -/

/-- Reset meets the invariant. 10 R28 gives the phase and the response registers only: that `PI`, `BI` and `SQ` stand in the
ranges of R18 and R19 at reset is the MODEL'S CHOICE (log 1: they hold 0), as the spec gives them no reset value. -/
def Obligations.InvariantAtReset : Prop := StateInvariant State.reset

/-- 10 R11, R18, R19, R21, R27, 42 R81: every step keeps the invariant, whatever the host does. -/
def Obligations.EveryStepKeepsTheInvariant : Prop :=
  ∀ s t : State, StateInvariant s → step s = .next t → StateInvariant t

/-- 60 R99, R109: no state the invariant allows stops: every step has a next state. -/
def Obligations.NoInvariantStateStops : Prop :=
  ∀ s : State, StateInvariant s → ∃ t, step s = .next t

/-- 60 R109: the block cannot hang: from every state the invariant allows, it is idle after at most 546 steps, unless
reset intervenes (and then it is idle at once, 70 R110). -/
def Obligations.EveryCommandEnds : Prop :=
  ∀ s : State, StateInvariant s → NoResetFor 546 s → ∃ k ≤ 546, ∃ t, run k s = .next t ∧ t.phase = .idle

/-- 10 R121: in every state, reset leads to `IDLE`, and without reset `PHASE` moves along the other edges of the table only
(`IP_DECOMP` and `IP_POW` do not reach `IDLE`). No edge joins the phases of two commands: a busy block goes to `IDLE` or
stays in its command, and a phase of a command is entered from `IDLE` only by the accept of that command. -/
def Obligations.PhaseMovesAlongTheEdges : Prop :=
  ∀ s t : State, step s = .next t →
    ((sampleOf s).rst = true → t.phase = .idle) ∧
    ((sampleOf s).rst = false →
      (s.phase, t.phase) ∈ phaseEdges ∧
      (s.phase ≠ .idle → t.phase = .idle ∨ phaseCommand t.phase = phaseCommand s.phase) ∧
      (s.phase = .idle → t.phase ≠ .idle →
        acceptsNow s = true ∧ phaseCommand t.phase = some (sampleOf s).cmdOp))

/-- 10 R12: `err_sticky` is 0 after reset; without reset it is set after a step exactly when it was set before or the
step accepted a command that faults. -/
def Obligations.ErrStickyRecordsFaults : Prop :=
  State.reset.errSticky = false ∧
  ∀ s t : State, step s = .next t →
    ((sampleOf s).rst = true → t.errSticky = false) ∧
    ((sampleOf s).rst = false → (t.errSticky = true ↔
      s.errSticky = true ∨ (acceptsNow s = true ∧ ¬ (decode (portsWord (sampleOf s))).InDomain)))

/-- 10 R6, R7, R8: without reset, a step that accepts no command writes none of `OP`, `CX`, `CY`, `CZ`: the operands and
the candidate never change during a command. -/
def Obligations.LatchesAreWrittenOnlyByAccept : Prop :=
  ∀ s t : State, step s = .next t → (sampleOf s).rst = false → acceptsNow s = false →
    t.op = s.op ∧ t.cx = s.cx ∧ t.cy = s.cy ∧ t.cz = s.cz

/-- 70 R115, 10 R27: the host has data to read exactly from a valid response without a fault code, in every state the
invariant allows, and in no other state at all; a code only from a valid response; and between accept and the end of
the command there is no valid response. -/
def Obligations.HostReadsOnlyValidResponses : Prop :=
  (∀ (s : State) (v : Word), hostReadData s = some v → s.rspValid = true ∧ s.rspErr = 0 ∧ s.rspData = some v) ∧
  (∀ (s : State) (c : BitVec 2), hostReadErr s = some c ↔ s.rspValid = true ∧ s.rspErr = c) ∧
  ∀ s : State, StateInvariant s →
    (s.rspValid = true → s.rspErr = 0 → ∃ v, hostReadData s = some v) ∧ (busy s = true → s.rspValid = false)

/-- 10 R24, 70 R117: the response of a command is a function of its command word alone: two idle blocks with any
histories show the same `busy`, `rsp_valid`, `rsp_err` and data after every number of steps. -/
def Obligations.ResponseDependsOnTheCommandAlone : Prop :=
  ∀ (i : Instr) (s₁ s₂ : State), StateInvariant s₁ → StateInvariant s₂ → s₁.phase = .idle → s₂.phase = .idle →
    s₁.inputs = [] → s₂.inputs = [] → ∀ k, ∃ t₁ t₂ u₁ u₂,
      exec i s₁ = .next t₁ ∧ exec i s₂ = .next t₂ ∧ run k t₁ = .next u₁ ∧ run k t₂ = .next u₂ ∧
      busy u₁ = busy u₂ ∧ u₁.rspValid = u₂.rspValid ∧ u₁.rspErr = u₂.rspErr ∧ u₁.rspData = u₂.rspData

/-- 30 R45: the `y` and `z` fields of `is_probable_prime` change nothing a host can observe. -/
def Obligations.IgnoredFieldsChangeNothingVisible : Prop :=
  ∀ (n y z y' z' : Word) (s : State), StateInvariant s → s.phase = .idle → s.inputs = [] →
    ∀ k, ∃ t t' u u',
      exec (.isProbablePrime n y z) s = .next t ∧ exec (.isProbablePrime n y' z') s = .next t' ∧
      run k t = .next u ∧ run k t' = .next u' ∧ outputs u = outputs u'

/-! ### Host programs, text, several blocks -/

/-- 30 R53, R50, 10 R27: on an idle block, every line whose operands are literals or bound variables (its word is `w`) has
its command accepted, and the host reads the response `commandResponse` gives it: the product, the power or the verdict,
or a fault code. A binding then stands for the result and leaves the other variables alone; where there is no result (a
fault) a line with a binding has no meaning, and the program is refused.
The counts of host steps (at most two beside the controller's, and 2 up to the refusal) are the MODEL'S CHOICE (log 15:
one host step for the accept, one for the read). -/
def Obligations.HostLineBindsItsResult : Prop :=
  ∀ (h : HostState) (line : HostLine) (rest : List HostLine) (w : CommandWord),
    h.block.phase = .idle → h.waiting = none → h.todo = line :: rest → lineWord h.vars line.command = some w →
    (line.bind = none ∨ (commandResponse (decode w)).2 ≠ none →
      ∃ k ≤ commandSteps (decode w) + 2, ∃ h', hostRun k h = .next h' ∧
        h'.block.phase = .idle ∧ h'.waiting = none ∧ h'.todo = rest ∧
        h'.responses = commandResponse (decode w) :: h.responses ∧
        (line.bind = none → h'.vars = h.vars) ∧
        ∀ name, line.bind = some name →
          lookupVar h'.vars name = (commandResponse (decode w)).2 ∧
          ∀ other, other ≠ name → lookupVar h'.vars other = lookupVar h.vars other) ∧
    (line.bind ≠ none → (commandResponse (decode w)).2 = none → hostRun 2 h = .refused .hostReadsNoValue)

/-- 30 R51: a command written as a line of text assembles to that command's word. -/
def Obligations.RenderedLineAssemblesToItsWord : Prop :=
  ∀ (i : Instr) (text : List Char), renderLine i = some text →
    ∃ l, assembleLine text = .ok (some l) ∧ l.bind = none ∧ lineWord [] l.command = some (encode i)

/-- 60 R108: a step of one block changes no other block of the system. -/
def Obligations.BlocksShareNothing : Prop :=
  ∀ (k : Nat) (bs cs : Blocks), stepBlockAt k bs = .next cs →
    cs.length = bs.length ∧ (∀ j, j ≠ k → cs[j]? = bs[j]?) ∧
    ∃ s t, bs[k]? = some s ∧ step s = .next t ∧ cs[k]? = some t

/-- 70 R112, 93 U4: between power-on and the first reset nothing but reset has a meaning, and the reset leaves the block
in the state after reset; from then on the block steps by `step`. -/
def Obligations.OnlyResetIsEnabledBeforeTheFirstReset : Prop :=
  (∀ (p : Ports) (rest : List Ports),
    (p.rst = false → poweredStep (.neverReset (p :: rest)) = .refused .beforeFirstReset) ∧
    (p.rst = true → poweredStep (.neverReset (p :: rest)) = .next (.running { State.reset with inputs := rest }))) ∧
  ∀ s t : State, step s = .next t → poweredStep (.running s) = .next (.running t)
end

