-- ==== Sys2Proof/Laws/State.lean ====
section
/-! SUPPORT. One lemma per field per named update of `State`, each true by `rfl`, so that no proof unfolds a record
update. -/

namespace Sys2Proof.Machine

@[simp] theorem latchCommand_phase (o : BitVec 2) (a b c : Word) (s : State) : (latchCommand o a b c s).phase = s.phase := rfl
@[simp] theorem latchCommand_op (o : BitVec 2) (a b c : Word) (s : State) : (latchCommand o a b c s).op = o := rfl
@[simp] theorem latchCommand_cx (o : BitVec 2) (a b c : Word) (s : State) : (latchCommand o a b c s).cx = a := rfl
@[simp] theorem latchCommand_cy (o : BitVec 2) (a b c : Word) (s : State) : (latchCommand o a b c s).cy = b := rfl
@[simp] theorem latchCommand_cz (o : BitVec 2) (a b c : Word) (s : State) : (latchCommand o a b c s).cz = c := rfl
@[simp] theorem latchCommand_xr (o : BitVec 2) (a b c : Word) (s : State) : (latchCommand o a b c s).xr = s.xr := rfl
@[simp] theorem latchCommand_xb (o : BitVec 2) (a b c : Word) (s : State) : (latchCommand o a b c s).xb = s.xb := rfl
@[simp] theorem latchCommand_xe (o : BitVec 2) (a b c : Word) (s : State) : (latchCommand o a b c s).xe = s.xe := rfl
@[simp] theorem latchCommand_xm (o : BitVec 2) (a b c : Word) (s : State) : (latchCommand o a b c s).xm = s.xm := rfl
@[simp] theorem latchCommand_d (o : BitVec 2) (a b c : Word) (s : State) : (latchCommand o a b c s).d = s.d := rfl
@[simp] theorem latchCommand_r (o : BitVec 2) (a b c : Word) (s : State) : (latchCommand o a b c s).r = s.r := rfl
@[simp] theorem latchCommand_x (o : BitVec 2) (a b c : Word) (s : State) : (latchCommand o a b c s).x = s.x := rfl
@[simp] theorem latchCommand_pi (o : BitVec 2) (a b c : Word) (s : State) : (latchCommand o a b c s).pi = s.pi := rfl
@[simp] theorem latchCommand_bi (o : BitVec 2) (a b c : Word) (s : State) : (latchCommand o a b c s).bi = s.bi := rfl
@[simp] theorem latchCommand_sq (o : BitVec 2) (a b c : Word) (s : State) : (latchCommand o a b c s).sq = s.sq := rfl
@[simp] theorem latchCommand_rspValid (o : BitVec 2) (a b c : Word) (s : State) : (latchCommand o a b c s).rspValid = false := rfl
@[simp] theorem latchCommand_rspErr (o : BitVec 2) (a b c : Word) (s : State) : (latchCommand o a b c s).rspErr = 0 := rfl
@[simp] theorem latchCommand_rspData (o : BitVec 2) (a b c : Word) (s : State) : (latchCommand o a b c s).rspData = none := rfl
@[simp] theorem latchCommand_errSticky (o : BitVec 2) (a b c : Word) (s : State) : (latchCommand o a b c s).errSticky = s.errSticky := rfl
@[simp] theorem latchCommand_inputs (o : BitVec 2) (a b c : Word) (s : State) : (latchCommand o a b c s).inputs = s.inputs := rfl

@[simp] theorem complete_phase (v : Word) (s : State) : (complete v s).phase = .idle := rfl
@[simp] theorem complete_op (v : Word) (s : State) : (complete v s).op = s.op := rfl
@[simp] theorem complete_cx (v : Word) (s : State) : (complete v s).cx = s.cx := rfl
@[simp] theorem complete_cy (v : Word) (s : State) : (complete v s).cy = s.cy := rfl
@[simp] theorem complete_cz (v : Word) (s : State) : (complete v s).cz = s.cz := rfl
@[simp] theorem complete_xr (v : Word) (s : State) : (complete v s).xr = s.xr := rfl
@[simp] theorem complete_xb (v : Word) (s : State) : (complete v s).xb = s.xb := rfl
@[simp] theorem complete_xe (v : Word) (s : State) : (complete v s).xe = s.xe := rfl
@[simp] theorem complete_xm (v : Word) (s : State) : (complete v s).xm = s.xm := rfl
@[simp] theorem complete_d (v : Word) (s : State) : (complete v s).d = s.d := rfl
@[simp] theorem complete_r (v : Word) (s : State) : (complete v s).r = s.r := rfl
@[simp] theorem complete_x (v : Word) (s : State) : (complete v s).x = s.x := rfl
@[simp] theorem complete_pi (v : Word) (s : State) : (complete v s).pi = s.pi := rfl
@[simp] theorem complete_bi (v : Word) (s : State) : (complete v s).bi = s.bi := rfl
@[simp] theorem complete_sq (v : Word) (s : State) : (complete v s).sq = s.sq := rfl
@[simp] theorem complete_rspValid (v : Word) (s : State) : (complete v s).rspValid = true := rfl
@[simp] theorem complete_rspErr (v : Word) (s : State) : (complete v s).rspErr = 0 := rfl
@[simp] theorem complete_rspData (v : Word) (s : State) : (complete v s).rspData = some v := rfl
@[simp] theorem complete_errSticky (v : Word) (s : State) : (complete v s).errSticky = s.errSticky := rfl
@[simp] theorem complete_inputs (v : Word) (s : State) : (complete v s).inputs = s.inputs := rfl

@[simp] theorem raiseFault_phase (c : FaultCode) (s : State) : (raiseFault c s).phase = .idle := rfl
@[simp] theorem raiseFault_op (c : FaultCode) (s : State) : (raiseFault c s).op = s.op := rfl
@[simp] theorem raiseFault_cx (c : FaultCode) (s : State) : (raiseFault c s).cx = s.cx := rfl
@[simp] theorem raiseFault_cy (c : FaultCode) (s : State) : (raiseFault c s).cy = s.cy := rfl
@[simp] theorem raiseFault_cz (c : FaultCode) (s : State) : (raiseFault c s).cz = s.cz := rfl
@[simp] theorem raiseFault_xr (c : FaultCode) (s : State) : (raiseFault c s).xr = s.xr := rfl
@[simp] theorem raiseFault_xb (c : FaultCode) (s : State) : (raiseFault c s).xb = s.xb := rfl
@[simp] theorem raiseFault_xe (c : FaultCode) (s : State) : (raiseFault c s).xe = s.xe := rfl
@[simp] theorem raiseFault_xm (c : FaultCode) (s : State) : (raiseFault c s).xm = s.xm := rfl
@[simp] theorem raiseFault_d (c : FaultCode) (s : State) : (raiseFault c s).d = s.d := rfl
@[simp] theorem raiseFault_r (c : FaultCode) (s : State) : (raiseFault c s).r = s.r := rfl
@[simp] theorem raiseFault_x (c : FaultCode) (s : State) : (raiseFault c s).x = s.x := rfl
@[simp] theorem raiseFault_pi (c : FaultCode) (s : State) : (raiseFault c s).pi = s.pi := rfl
@[simp] theorem raiseFault_bi (c : FaultCode) (s : State) : (raiseFault c s).bi = s.bi := rfl
@[simp] theorem raiseFault_sq (c : FaultCode) (s : State) : (raiseFault c s).sq = s.sq := rfl
@[simp] theorem raiseFault_rspValid (c : FaultCode) (s : State) : (raiseFault c s).rspValid = true := rfl
@[simp] theorem raiseFault_rspErr (c : FaultCode) (s : State) : (raiseFault c s).rspErr = faultCodeBits c := rfl
@[simp] theorem raiseFault_rspData (c : FaultCode) (s : State) : (raiseFault c s).rspData = none := rfl
@[simp] theorem raiseFault_errSticky (c : FaultCode) (s : State) : (raiseFault c s).errSticky = true := rfl
@[simp] theorem raiseFault_inputs (c : FaultCode) (s : State) : (raiseFault c s).inputs = s.inputs := rfl

@[simp] theorem gotoPhase_phase (p : Phase) (s : State) : (gotoPhase p s).phase = p := rfl
@[simp] theorem gotoPhase_op (p : Phase) (s : State) : (gotoPhase p s).op = s.op := rfl
@[simp] theorem gotoPhase_cx (p : Phase) (s : State) : (gotoPhase p s).cx = s.cx := rfl
@[simp] theorem gotoPhase_cy (p : Phase) (s : State) : (gotoPhase p s).cy = s.cy := rfl
@[simp] theorem gotoPhase_cz (p : Phase) (s : State) : (gotoPhase p s).cz = s.cz := rfl
@[simp] theorem gotoPhase_xr (p : Phase) (s : State) : (gotoPhase p s).xr = s.xr := rfl
@[simp] theorem gotoPhase_xb (p : Phase) (s : State) : (gotoPhase p s).xb = s.xb := rfl
@[simp] theorem gotoPhase_xe (p : Phase) (s : State) : (gotoPhase p s).xe = s.xe := rfl
@[simp] theorem gotoPhase_xm (p : Phase) (s : State) : (gotoPhase p s).xm = s.xm := rfl
@[simp] theorem gotoPhase_d (p : Phase) (s : State) : (gotoPhase p s).d = s.d := rfl
@[simp] theorem gotoPhase_r (p : Phase) (s : State) : (gotoPhase p s).r = s.r := rfl
@[simp] theorem gotoPhase_x (p : Phase) (s : State) : (gotoPhase p s).x = s.x := rfl
@[simp] theorem gotoPhase_pi (p : Phase) (s : State) : (gotoPhase p s).pi = s.pi := rfl
@[simp] theorem gotoPhase_bi (p : Phase) (s : State) : (gotoPhase p s).bi = s.bi := rfl
@[simp] theorem gotoPhase_sq (p : Phase) (s : State) : (gotoPhase p s).sq = s.sq := rfl
@[simp] theorem gotoPhase_rspValid (p : Phase) (s : State) : (gotoPhase p s).rspValid = s.rspValid := rfl
@[simp] theorem gotoPhase_rspErr (p : Phase) (s : State) : (gotoPhase p s).rspErr = s.rspErr := rfl
@[simp] theorem gotoPhase_rspData (p : Phase) (s : State) : (gotoPhase p s).rspData = s.rspData := rfl
@[simp] theorem gotoPhase_errSticky (p : Phase) (s : State) : (gotoPhase p s).errSticky = s.errSticky := rfl
@[simp] theorem gotoPhase_inputs (p : Phase) (s : State) : (gotoPhase p s).inputs = s.inputs := rfl

@[simp] theorem loadMexp_phase (a e m : Word) (s : State) : (loadMexp a e m s).phase = s.phase := rfl
@[simp] theorem loadMexp_op (a e m : Word) (s : State) : (loadMexp a e m s).op = s.op := rfl
@[simp] theorem loadMexp_cx (a e m : Word) (s : State) : (loadMexp a e m s).cx = s.cx := rfl
@[simp] theorem loadMexp_cy (a e m : Word) (s : State) : (loadMexp a e m s).cy = s.cy := rfl
@[simp] theorem loadMexp_cz (a e m : Word) (s : State) : (loadMexp a e m s).cz = s.cz := rfl
@[simp] theorem loadMexp_xr (a e m : Word) (s : State) : (loadMexp a e m s).xr = 1 % m := rfl
@[simp] theorem loadMexp_xb (a e m : Word) (s : State) : (loadMexp a e m s).xb = a := rfl
@[simp] theorem loadMexp_xe (a e m : Word) (s : State) : (loadMexp a e m s).xe = e := rfl
@[simp] theorem loadMexp_xm (a e m : Word) (s : State) : (loadMexp a e m s).xm = m := rfl
@[simp] theorem loadMexp_d (a e m : Word) (s : State) : (loadMexp a e m s).d = s.d := rfl
@[simp] theorem loadMexp_r (a e m : Word) (s : State) : (loadMexp a e m s).r = s.r := rfl
@[simp] theorem loadMexp_x (a e m : Word) (s : State) : (loadMexp a e m s).x = s.x := rfl
@[simp] theorem loadMexp_pi (a e m : Word) (s : State) : (loadMexp a e m s).pi = s.pi := rfl
@[simp] theorem loadMexp_bi (a e m : Word) (s : State) : (loadMexp a e m s).bi = s.bi := rfl
@[simp] theorem loadMexp_sq (a e m : Word) (s : State) : (loadMexp a e m s).sq = s.sq := rfl
@[simp] theorem loadMexp_rspValid (a e m : Word) (s : State) : (loadMexp a e m s).rspValid = s.rspValid := rfl
@[simp] theorem loadMexp_rspErr (a e m : Word) (s : State) : (loadMexp a e m s).rspErr = s.rspErr := rfl
@[simp] theorem loadMexp_rspData (a e m : Word) (s : State) : (loadMexp a e m s).rspData = s.rspData := rfl
@[simp] theorem loadMexp_errSticky (a e m : Word) (s : State) : (loadMexp a e m s).errSticky = s.errSticky := rfl
@[simp] theorem loadMexp_inputs (a e m : Word) (s : State) : (loadMexp a e m s).inputs = s.inputs := rfl

@[simp] theorem mexpIter_phase (s : State) : (mexpIter s).phase = s.phase := rfl
@[simp] theorem mexpIter_op (s : State) : (mexpIter s).op = s.op := rfl
@[simp] theorem mexpIter_cx (s : State) : (mexpIter s).cx = s.cx := rfl
@[simp] theorem mexpIter_cy (s : State) : (mexpIter s).cy = s.cy := rfl
@[simp] theorem mexpIter_cz (s : State) : (mexpIter s).cz = s.cz := rfl
@[simp] theorem mexpIter_xr (s : State) : (mexpIter s).xr = if lowBit s.xe then mulmod s.xr s.xb s.xm else s.xr := rfl
@[simp] theorem mexpIter_xb (s : State) : (mexpIter s).xb = mulmod s.xb s.xb s.xm := rfl
@[simp] theorem mexpIter_xe (s : State) : (mexpIter s).xe = s.xe >>> 1 := rfl
@[simp] theorem mexpIter_xm (s : State) : (mexpIter s).xm = s.xm := rfl
@[simp] theorem mexpIter_d (s : State) : (mexpIter s).d = s.d := rfl
@[simp] theorem mexpIter_r (s : State) : (mexpIter s).r = s.r := rfl
@[simp] theorem mexpIter_x (s : State) : (mexpIter s).x = s.x := rfl
@[simp] theorem mexpIter_pi (s : State) : (mexpIter s).pi = s.pi := rfl
@[simp] theorem mexpIter_bi (s : State) : (mexpIter s).bi = s.bi := rfl
@[simp] theorem mexpIter_sq (s : State) : (mexpIter s).sq = s.sq := rfl
@[simp] theorem mexpIter_rspValid (s : State) : (mexpIter s).rspValid = s.rspValid := rfl
@[simp] theorem mexpIter_rspErr (s : State) : (mexpIter s).rspErr = s.rspErr := rfl
@[simp] theorem mexpIter_rspData (s : State) : (mexpIter s).rspData = s.rspData := rfl
@[simp] theorem mexpIter_errSticky (s : State) : (mexpIter s).errSticky = s.errSticky := rfl
@[simp] theorem mexpIter_inputs (s : State) : (mexpIter s).inputs = s.inputs := rfl

@[simp] theorem dropSample_phase (s : State) : (dropSample s).phase = s.phase := rfl
@[simp] theorem dropSample_op (s : State) : (dropSample s).op = s.op := rfl
@[simp] theorem dropSample_cx (s : State) : (dropSample s).cx = s.cx := rfl
@[simp] theorem dropSample_cy (s : State) : (dropSample s).cy = s.cy := rfl
@[simp] theorem dropSample_cz (s : State) : (dropSample s).cz = s.cz := rfl
@[simp] theorem dropSample_xr (s : State) : (dropSample s).xr = s.xr := rfl
@[simp] theorem dropSample_xb (s : State) : (dropSample s).xb = s.xb := rfl
@[simp] theorem dropSample_xe (s : State) : (dropSample s).xe = s.xe := rfl
@[simp] theorem dropSample_xm (s : State) : (dropSample s).xm = s.xm := rfl
@[simp] theorem dropSample_d (s : State) : (dropSample s).d = s.d := rfl
@[simp] theorem dropSample_r (s : State) : (dropSample s).r = s.r := rfl
@[simp] theorem dropSample_x (s : State) : (dropSample s).x = s.x := rfl
@[simp] theorem dropSample_pi (s : State) : (dropSample s).pi = s.pi := rfl
@[simp] theorem dropSample_bi (s : State) : (dropSample s).bi = s.bi := rfl
@[simp] theorem dropSample_sq (s : State) : (dropSample s).sq = s.sq := rfl
@[simp] theorem dropSample_rspValid (s : State) : (dropSample s).rspValid = s.rspValid := rfl
@[simp] theorem dropSample_rspErr (s : State) : (dropSample s).rspErr = s.rspErr := rfl
@[simp] theorem dropSample_rspData (s : State) : (dropSample s).rspData = s.rspData := rfl
@[simp] theorem dropSample_errSticky (s : State) : (dropSample s).errSticky = s.errSticky := rfl
@[simp] theorem dropSample_inputs (s : State) : (dropSample s).inputs = s.inputs.tail := rfl

@[simp] theorem resetBlock_phase (s : State) : (resetBlock s).phase = State.reset.phase := rfl
@[simp] theorem resetBlock_op (s : State) : (resetBlock s).op = State.reset.op := rfl
@[simp] theorem resetBlock_cx (s : State) : (resetBlock s).cx = State.reset.cx := rfl
@[simp] theorem resetBlock_cy (s : State) : (resetBlock s).cy = State.reset.cy := rfl
@[simp] theorem resetBlock_cz (s : State) : (resetBlock s).cz = State.reset.cz := rfl
@[simp] theorem resetBlock_xr (s : State) : (resetBlock s).xr = State.reset.xr := rfl
@[simp] theorem resetBlock_xb (s : State) : (resetBlock s).xb = State.reset.xb := rfl
@[simp] theorem resetBlock_xe (s : State) : (resetBlock s).xe = State.reset.xe := rfl
@[simp] theorem resetBlock_xm (s : State) : (resetBlock s).xm = State.reset.xm := rfl
@[simp] theorem resetBlock_d (s : State) : (resetBlock s).d = State.reset.d := rfl
@[simp] theorem resetBlock_r (s : State) : (resetBlock s).r = State.reset.r := rfl
@[simp] theorem resetBlock_x (s : State) : (resetBlock s).x = State.reset.x := rfl
@[simp] theorem resetBlock_pi (s : State) : (resetBlock s).pi = State.reset.pi := rfl
@[simp] theorem resetBlock_bi (s : State) : (resetBlock s).bi = State.reset.bi := rfl
@[simp] theorem resetBlock_sq (s : State) : (resetBlock s).sq = State.reset.sq := rfl
@[simp] theorem resetBlock_rspValid (s : State) : (resetBlock s).rspValid = State.reset.rspValid := rfl
@[simp] theorem resetBlock_rspErr (s : State) : (resetBlock s).rspErr = State.reset.rspErr := rfl
@[simp] theorem resetBlock_rspData (s : State) : (resetBlock s).rspData = State.reset.rspData := rfl
@[simp] theorem resetBlock_errSticky (s : State) : (resetBlock s).errSticky = State.reset.errSticky := rfl
@[simp] theorem resetBlock_inputs (s : State) : (resetBlock s).inputs = s.inputs := rfl

end Sys2Proof.Machine
end

