-- ==== Sys2Proof/Laws/Ops.lean ====
section
/-! SUPPORT. One lemma per shared operation that says everything it can do; the provers cite these and do not unfold the
operations. -/

namespace Sys2Proof.Machine

/-! ### Accept -/

theorem accept_idle {op : BitVec 2} {x y z : Word} {k : State → State} {s : State} (h : s.phase = .idle) :
    accept op x y z k s = .next (k (latchCommand op x y z s)) := if_pos h

theorem accept_busy {op : BitVec 2} {x y z : Word} {k : State → State} {s : State} (h : s.phase ≠ .idle) :
    accept op x y z k s = .next s := if_neg h

theorem withModulus_zero (k : State → State) (s : State) :
    withModulus 0 k s = raiseFault .modulusZero s := rfl

theorem withModulus_ne {m : Word} (h : m ≠ 0) (k : State → State) (s : State) : withModulus m k s = k s :=
  if_neg h

/-! ### The operations the controller's steps share -/

/-- One exponentiation step ends the exponentiation or does one iteration. -/
theorem mexpStep_next {done : State → State} {s t : State} (h : mexpStep done s = .next t) :
    (s.xe = 0 ∧ t = done s) ∨ (s.xe ≠ 0 ∧ s.xm ≠ 0 ∧ t = mexpIter s) := by
  unfold mexpStep at h
  split at h
  · exact .inl ⟨‹_›, by simpa using h.symm⟩
  · split at h
    · cases h
    · exact .inr ⟨‹_›, ‹_›, by simpa using h.symm⟩

/-- The end of one base's turn ends the command or selects the next base. -/
theorem nextBase_next {s t : State} (h : nextBase s = .next t) :
    (s.bi = 6 ∧ t = complete (verdictWord true) s) ∨
    (s.bi ≠ 6 ∧ s.bi ≠ 7 ∧ t = { s with bi := s.bi + 1, phase := .ipBase }) := by
  unfold nextBase at h
  split at h
  · exact .inl ⟨‹_›, by simpa using h.symm⟩
  · split at h
    · cases h
    · exact .inr ⟨‹_›, ‹_›, by simpa using h.symm⟩

/-! ### The controller's steps -/

theorem stepMmExec_next {s t : State} (h : stepMmExec s = .next t) :
    s.cz ≠ 0 ∧ t = complete (mulmod s.cx s.cy s.cz) s := by
  unfold stepMmExec at h
  split at h
  · cases h
  · exact ⟨‹_›, by simpa using h.symm⟩

theorem stepPmLoop_next {s t : State} (h : stepPmLoop s = .next t) :
    (s.xe = 0 ∧ t = complete s.xr s) ∨ (s.xe ≠ 0 ∧ s.xm ≠ 0 ∧ t = mexpIter s) :=
  mexpStep_next h

theorem stepIpRange_next {s t : State} (h : stepIpRange s = .next t) :
    (s.cx < 2 ∧ t = complete (verdictWord false) s) ∨ (¬ s.cx < 2 ∧ t = { s with pi := 0, phase := .ipTrial }) := by
  unfold stepIpRange at h
  split at h
  · exact .inl ⟨‹_›, by simpa using h.symm⟩
  · exact .inr ⟨‹_›, by simpa using h.symm⟩

theorem stepIpTrial_next {s t : State} (h : stepIpTrial s = .next t) :
    ∃ p, romRead .smallPrime s.pi.toNat = some p ∧
      ((trialRem s.cx p = 0 ∧ t = complete (verdictWord (s.cx == p)) s) ∨
       (trialRem s.cx p ≠ 0 ∧ s.pi = 11 ∧ t = { s with d := s.cx - 1, r := 0, phase := .ipDecomp }) ∨
       (trialRem s.cx p ≠ 0 ∧ s.pi ≠ 11 ∧ t = { s with pi := s.pi + 1 })) := by
  unfold stepIpTrial at h
  split at h
  · cases h
  · rename_i p hp
    refine ⟨p, hp, ?_⟩
    split at h
    · exact .inl ⟨‹_›, by simpa using h.symm⟩
    · split at h
      · exact .inr (.inl ⟨‹_›, ‹_›, by simpa using h.symm⟩)
      · exact .inr (.inr ⟨‹_›, ‹_›, by simpa using h.symm⟩)

theorem stepIpDecomp_next {s t : State} (h : stepIpDecomp s = .next t) :
    (lowBit s.d = true ∧ t = { s with bi := 0, phase := .ipBase }) ∨
    (lowBit s.d = false ∧ s.r ≠ 63 ∧ t = { s with d := s.d >>> 1, r := s.r + 1 }) := by
  unfold stepIpDecomp at h
  split at h
  · exact .inl ⟨‹_›, by simpa using h.symm⟩
  · split at h
    · cases h
    · exact .inr ⟨by simpa using ‹¬ lowBit s.d = true›, ‹_›, by simpa using h.symm⟩

theorem stepIpBase_next {s t : State} (h : stepIpBase s = .next t) :
    ∃ a, romRead .base s.bi.toNat = some a ∧
      ((baseSkipped s.cx a = true ∧ nextBase s = .next t) ∨
       (baseSkipped s.cx a = false ∧ t = gotoPhase .ipPow (loadMexp a s.d s.cx s))) := by
  unfold stepIpBase at h
  split at h
  · cases h
  · rename_i a ha
    refine ⟨a, ha, ?_⟩
    split at h
    · exact .inl ⟨‹_›, h⟩
    · exact .inr ⟨by simpa using ‹¬ baseSkipped s.cx a = true›, by simpa using h.symm⟩

theorem stepIpPow_next {s t : State} (h : stepIpPow s = .next t) :
    (s.xe = 0 ∧ t = { s with x := s.xr, phase := .ipCheck }) ∨ (s.xe ≠ 0 ∧ s.xm ≠ 0 ∧ t = mexpIter s) :=
  mexpStep_next h

theorem stepIpCheck_next {s t : State} (h : stepIpCheck s = .next t) :
    ((s.x == 1 || isPred s.x s.cx) = true ∧ nextBase s = .next t) ∨
    ((s.x == 1 || isPred s.x s.cx) = false ∧ t = { s with sq := 0, phase := .ipSquare }) := by
  unfold stepIpCheck at h
  split at h
  · exact .inl ⟨‹_›, h⟩
  · exact .inr ⟨by simpa using ‹¬ (s.x == 1 || isPred s.x s.cx) = true›, by simpa using h.symm⟩

theorem stepIpSquare_next {s t : State} (h : stepIpSquare s = .next t) :
    (s.r.toNat ≤ s.sq.toNat + 1 ∧ t = complete (verdictWord false) s) ∨
    (s.sq.toNat + 1 < s.r.toNat ∧ s.cx ≠ 0 ∧
      ((isPred (mulmod s.x s.x s.cx) s.cx = true ∧
          nextBase { s with x := mulmod s.x s.x s.cx, sq := s.sq + 1 } = .next t) ∨
       (isPred (mulmod s.x s.x s.cx) s.cx = false ∧
          t = { s with x := mulmod s.x s.x s.cx, sq := s.sq + 1 }))) := by
  unfold stepIpSquare at h
  split at h
  · exact .inl ⟨‹_›, by simpa using h.symm⟩
  · split at h
    · cases h
    · refine .inr ⟨by omega, ‹_›, ?_⟩
      dsimp only at h
      split at h
      · exact .inl ⟨‹_›, h⟩
      · rename_i hp
        exact .inr ⟨by simpa using hp, by simpa using h.symm⟩

/-! ### One step -/

/-- Everything a step can do: reset, a controller step, an accept, or nothing. -/
theorem step_cases {s t : State} (h : step s = .next t) :
    ((sampleOf s).rst = true ∧ t = resetBlock (dropSample s)) ∨
    ((sampleOf s).rst = false ∧ busy s = true ∧ controllerStep (dropSample s) = .next t) ∨
    ((sampleOf s).rst = false ∧ busy s = false ∧ (sampleOf s).cmdValid = true ∧
      exec (decode (portsWord (sampleOf s))) (dropSample s) = .next t) ∨
    ((sampleOf s).rst = false ∧ busy s = false ∧ (sampleOf s).cmdValid = false ∧ t = dropSample s) := by
  unfold step at h
  split at h
  · exact .inl ⟨‹_›, by simpa using h.symm⟩
  · rename_i hr
    have hr : (sampleOf s).rst = false := by simpa using hr
    split at h
    · exact .inr (.inl ⟨hr, ‹_›, h⟩)
    · rename_i hb
      have hb : busy s = false := by simpa using hb
      split at h
      · exact .inr (.inr (.inl ⟨hr, hb, ‹_›, h⟩))
      · exact .inr (.inr (.inr ⟨hr, hb, by simpa using ‹¬ (sampleOf s).cmdValid = true›, by simpa using h.symm⟩))

/-- The block is idle exactly when it is not busy. -/
theorem busy_eq_false_iff {s : State} : busy s = false ↔ s.phase = .idle := by simp [busy]

@[simp] theorem busy_dropSample (s : State) : busy (dropSample s) = busy s := rfl

/-- What accept does with an idle block, command by command. -/
theorem exec_idle {i : Instr} {s : State} (h : s.phase = .idle) :
    exec i s = .next (match i with
      | .mulMod a b m => withModulus m (gotoPhase .mmExec) (latchCommand 0 a b m s)
      | .powMod a e m =>
        withModulus m (fun t => gotoPhase .pmLoop (loadMexp a e m t)) (latchCommand 1 a e m s)
      | .isProbablePrime n y z => gotoPhase .ipRange (latchCommand 2 n y z s)
      | .reserved x y z => raiseFault .illegalCommand (latchCommand 3 x y z s)) := by
  cases i <;> exact accept_idle h

theorem exec_idle_inputs {i : Instr} {s t : State} (hs : s.phase = .idle) (h : exec i s = .next t) :
    t.inputs = s.inputs := by
  rw [exec_idle hs] at h
  cases h
  cases i <;> simp only [withModulus] <;> (try split) <;> rfl

theorem nextBase_inputs {s t : State} (h : nextBase s = .next t) : t.inputs = s.inputs := by
  obtain ⟨-, rfl⟩ | ⟨-, -, rfl⟩ := nextBase_next h <;> rfl

theorem controllerStep_inputs {s t : State} (h : controllerStep s = .next t) : t.inputs = s.inputs := by
  unfold controllerStep at h
  split at h
  · cases h; rfl
  · obtain ⟨-, rfl⟩ := stepMmExec_next h; rfl
  · obtain ⟨-, rfl⟩ | ⟨-, -, rfl⟩ := stepPmLoop_next h <;> rfl
  · obtain ⟨-, rfl⟩ | ⟨-, rfl⟩ := stepIpRange_next h <;> rfl
  · obtain ⟨_, -, ⟨-, rfl⟩ | ⟨-, -, rfl⟩ | ⟨-, -, rfl⟩⟩ := stepIpTrial_next h <;> rfl
  · obtain ⟨-, rfl⟩ | ⟨-, -, rfl⟩ := stepIpDecomp_next h <;> rfl
  · obtain ⟨_, -, ⟨-, h⟩ | ⟨-, rfl⟩⟩ := stepIpBase_next h
    · exact nextBase_inputs h
    · rfl
  · obtain ⟨-, rfl⟩ | ⟨-, -, rfl⟩ := stepIpPow_next h <;> rfl
  · obtain ⟨-, h⟩ | ⟨-, rfl⟩ := stepIpCheck_next h
    · exact nextBase_inputs h
    · rfl
  · obtain ⟨-, rfl⟩ | ⟨-, -, ⟨-, h⟩ | ⟨-, rfl⟩⟩ := stepIpSquare_next h
    · rfl
    · exact (nextBase_inputs h).trans rfl
    · rfl

/-- A step takes one sample of the ports and leaves the later ones. -/
theorem step_inputs {s t : State} (h : step s = .next t) : t.inputs = s.inputs.tail := by
  obtain ⟨-, rfl⟩ | ⟨-, -, h⟩ | ⟨-, hb, -, h⟩ | ⟨-, -, -, rfl⟩ := step_cases h
  · rfl
  · exact controllerStep_inputs h
  · exact exec_idle_inputs (s := dropSample s) (busy_eq_false_iff.1 hb) h
  · rfl

/-! ### Runs -/

theorem run_succ_of_step {k : Nat} {s t : State} (h : step s = .next t) : run (k + 1) s = run k t := by
  simp [run, h]

theorem run_one {s : State} : run 1 s = step s := by
  cases h : step s <;> simp [run, h]

/-- Runs compose. -/
theorem run_add {j k : Nat} {s t : State} (h : run j s = .next t) : run (j + k) s = run k t := by
  induction j generalizing s with
  | zero =>
    simp only [run, Host.Outcome.next.injEq] at h
    simp [h]
  | succ j ih =>
    rw [Nat.succ_add]
    cases hu : step s with
    | next u => rw [run_succ_of_step hu] at h ⊢; exact ih h
    | fault f => simp [run, hu] at h
    | refused f => simp [run, hu] at h

end Sys2Proof.Machine
end

