-- ==== Sys2Proof/Laws/Host.lean ====
section
/-! SUPPORT. What one step of a host program does, and how its waiting follows the block's run, so that a claim about a
host line is a claim about `exec` and `run`. -/

namespace Sys2Proof.Machine

/-! ### One host step -/

theorem withBlockStep_next {p : Ports} {h : HostState} {k : State → HostState} {b : State}
    (hb : step { h.block with inputs := [p] } = .next b) : withBlockStep p h k = .next (k b) := by
  simp [withBlockStep, hb]

theorem hostStep_reads {h : HostState} {bind : Option VarName} (hw : h.waiting = some bind)
    (hv : h.block.rspValid = true) : hostStep h = hostReads bind h := by
  simp [hostStep, hw, hv]

theorem hostStep_waits {h : HostState} {bind : Option VarName} (hw : h.waiting = some bind)
    (hv : h.block.rspValid = false) :
    hostStep h = withBlockStep releasedPorts h (fun b => { h with block := b }) := by
  simp [hostStep, hw, hv]

theorem hostStep_offers {h : HostState} {line : HostLine} {rest : List HostLine} {w : CommandWord}
    (hb : busy h.block = false) (hw : h.waiting = none) (ht : h.todo = line :: rest)
    (hl : lineWord h.vars line.command = some w) :
    hostStep h = withBlockStep (offerPorts w) h
      (fun b => { h with block := b, todo := rest, waiting := some line.bind }) := by
  simp [hostStep, hw, ht, hb, hl]

/-- The read at the end of a line: with a value, or without a binding, it goes on. -/
theorem hostReads_value (name : VarName) {h : HostState} {v : Word} (hv : hostReadData h.block = some v) :
    hostReads (some name) h = .next { h with
      waiting := none, vars := (name, v) :: h.vars, responses := (h.block.rspErr, some v) :: h.responses } := by
  simp [hostReads, hv]

theorem hostReads_unbound (h : HostState) :
    hostReads none h = .next { h with
      waiting := none, responses := (h.block.rspErr, hostReadData h.block) :: h.responses } := by
  simp [hostReads]

theorem hostReads_refused (name : VarName) {h : HostState} (hv : hostReadData h.block = none) :
    hostReads (some name) h = .refused .hostReadsNoValue := by
  simp [hostReads, hv]

/-! ### The host's variables -/

theorem lookupVar_cons_self (name : VarName) (v : Word) (vars : HostVars) :
    lookupVar ((name, v) :: vars) name = some v := by
  simp [lookupVar]

theorem lookupVar_cons_ne {name other : VarName} (h : other ≠ name) (v : Word) (vars : HostVars) :
    lookupVar ((name, v) :: vars) other = lookupVar vars other := by
  simp [lookupVar, Ne.symm h]

/-! ### The block under the host's samples -/

/-- The sample the host presents while it waits is the released one, which an empty list of samples stands for too. -/
theorem step_released (b : State) :
    step { b with inputs := [releasedPorts] } = step { b with inputs := [] } := rfl

/-- The four fields of a command word make the word (30 R42). -/
theorem commandWord_fields (w : CommandWord) : commandWord w.op w.x w.y w.z = w := by
  simp only [commandWord, CommandWord.op, CommandWord.x, CommandWord.y, CommandWord.z]
  apply BitVec.eq_of_getLsbD_eq
  intro i hi
  rw [BitVec.getLsbD_append, BitVec.getLsbD_append, BitVec.getLsbD_append]
  simp only [BitVec.getLsbD_extractLsb']
  split_ifs
  · simp_all
  · rw [show 64 + (i - 64) = i by omega]; simp; intro; omega
  · rw [show 128 + (i - 64 - 64) = i by omega]; simp; intro; omega
  · rw [show 192 + (i - 64 - 64 - 64) = i by omega]; simp; intro; omega

/-- The ports carry the word the host offers. -/
theorem portsWord_offerPorts (w : CommandWord) : portsWord (offerPorts w) = w := commandWord_fields w

/-- The sample the host offers is accepted by an idle block. -/
theorem step_offered {b : State} (hb : b.phase = .idle) (w : CommandWord) :
    step { b with inputs := [offerPorts w] } = exec (decode w) { b with inputs := [] } := by
  have h : step { b with inputs := [offerPorts w] } =
      exec (decode (portsWord (offerPorts w))) { b with inputs := [] } := by
    simp [step, sampleOf, dropSample, busy, offerPorts, hb]
  rw [h, portsWord_offerPorts]

/-! ### Responses -/

/-- A command in its domain ends without a code and with a result (60 R99). -/
theorem commandResponse_inDomain {i : Instr} (h : i.InDomain) :
    (commandResponse i).1 = 0 ∧ (commandResponse i).2 ≠ none := by
  cases i <;> simp_all [commandResponse, Instr.InDomain, Instr.inDomain]

/-- A command outside its domain ends at once, with a code and without a result (60 R96 to R98). -/
theorem commandResponse_outside {i : Instr} (h : ¬ i.InDomain) :
    (commandResponse i).1 ≠ 0 ∧ (commandResponse i).2 = none ∧ commandSteps i = 0 := by
  cases i <;> simp_all [commandResponse, commandSteps, Instr.InDomain, Instr.inDomain]

/-! ### Runs of the host -/

theorem hostRun_succ_of_step {k : Nat} {h h' : HostState} (hs : hostStep h = .next h') :
    hostRun (k + 1) h = hostRun k h' := by
  simp [hostRun, hs]

theorem hostRun_one {h : HostState} : hostRun 1 h = hostStep h := by
  cases hs : hostStep h <;> simp [hostRun, hs]

/-- The host step after a run. -/
theorem hostRun_succ {k : Nat} {h h' : HostState} (hr : hostRun k h = .next h') :
    hostRun (k + 1) h = hostStep h' := by
  induction k generalizing h with
  | zero =>
    cases hr
    exact hostRun_one
  | succ k ih =>
    cases hs : hostStep h with
    | next m => rw [hostRun_succ_of_step hs] at hr ⊢; exact ih hr
    | fault f => simp [hostRun, hs] at hr
    | refused f => simp [hostRun, hs] at hr

/-- While the host waits, its block runs by itself: a run of the block without a valid response on the way is a run of
the host of the same length. -/
theorem hostRun_waits {k : Nat} {h : HostState} {bind : Option VarName} {u : State} (hw : h.waiting = some bind)
    (hi : h.block.inputs = []) (hr : run k h.block = .next u)
    (hv : ∀ j < k, ∃ v, run j h.block = .next v ∧ v.rspValid = false) :
    hostRun k h = .next { h with block := u } := by
  induction k generalizing h with
  | zero =>
    cases hr
    rfl
  | succ k ih =>
    obtain ⟨v, hv0, hv0'⟩ := hv 0 (by omega)
    cases hv0
    have hb : { h.block with inputs := [] } = h.block := by rw [← hi]
    cases hs : step h.block with
    | next t =>
      have hstep : hostStep h = .next { h with block := t } := by
        rw [hostStep_waits hw hv0']
        exact withBlockStep_next (by rw [step_released, hb, hs])
      have hti : t.inputs = [] := by rw [step_inputs hs, hi]; rfl
      rw [hostRun_succ_of_step hstep]
      rw [run_succ_of_step hs] at hr
      refine ih (h := { h with block := t }) hw hti hr fun j hj => ?_
      have := hv (j + 1) (by omega)
      rwa [run_succ_of_step hs] at this
    | fault f => simp [run, hs] at hr
    | refused f => simp [run, hs] at hr

end Sys2Proof.Machine
end

