-- ==== Sys2Proof/Laws/PerInstr.lean ====
section
/-! SUPPORT. Facts about every command as syntax, one lemma per constructor of `Instr`. -/

namespace Sys2Proof.Laws

/-- The family: a command's four numbers fit their fields (30_encoding.md R43), and its word carries its own operation
code in bits 193:192 (R46). -/
def FitsItsWord.Statement (i : Instr) : Prop := i.WellFormed ∧ (encode i).op = opcodeOf i

/-- The field `op` of a word put together from four fields (30 R42). -/
theorem commandWord_op (o : BitVec 2) (x y z : Word) : (commandWord o x y z).op = o := by
  simp only [commandWord, CommandWord.op]
  ext i hi
  rw [BitVec.getElem_extractLsb', BitVec.getLsbD_append, BitVec.getLsbD_append, BitVec.getLsbD_append]
  simp only [show ¬ (192 + i < 64) by omega, show ¬ (192 + i - 64 < 64) by omega,
    show ¬ (192 + i - 64 - 64 < 64) by omega, if_false]
  rw [show 192 + i - 64 - 64 - 64 = i by omega, BitVec.getLsbD_eq_getElem hi]

theorem FitsItsWord.mulMod (a b m : Word) : FitsItsWord.Statement (.mulMod a b m) :=
  ⟨⟨(by decide : 0 < 2 ^ 2), a.isLt, b.isLt, m.isLt⟩, commandWord_op _ _ _ _⟩

theorem FitsItsWord.powMod (a e m : Word) : FitsItsWord.Statement (.powMod a e m) :=
  ⟨⟨(by decide : 1 < 2 ^ 2), a.isLt, e.isLt, m.isLt⟩, commandWord_op _ _ _ _⟩

theorem FitsItsWord.isProbablePrime (n y z : Word) : FitsItsWord.Statement (.isProbablePrime n y z) :=
  ⟨⟨(by decide : 2 < 2 ^ 2), n.isLt, y.isLt, z.isLt⟩, commandWord_op _ _ _ _⟩

theorem FitsItsWord.reserved (x y z : Word) : FitsItsWord.Statement (.reserved x y z) :=
  ⟨⟨(by decide : 3 < 2 ^ 2), x.isLt, y.isLt, z.isLt⟩, commandWord_op _ _ _ _⟩

end Sys2Proof.Laws
end

