-- ==== Sys2Proof/Laws/Rom.lean ====
section
/-! SUPPORT. The constant tables, entry by entry. (A goal "for all p in a table" is for `simp` with these lemmas, not for
`decide`, which would take the quantifier over all 64-bit words first.) -/

namespace Sys2Proof.Machine

theorem forall_mem_smallPrimes {P : Word → Prop} :
    (∀ p ∈ smallPrimes, P p) ↔
      P 2 ∧ P 3 ∧ P 5 ∧ P 7 ∧ P 11 ∧ P 13 ∧ P 17 ∧ P 19 ∧ P 23 ∧ P 29 ∧ P 31 ∧ P 37 := by
  simp only [smallPrimes, List.forall_mem_cons, List.not_mem_nil, false_imp_iff, implies_true, and_true]

theorem forall_mem_bases {P : Word → Prop} :
    (∀ a ∈ bases, P a) ↔ P 2 ∧ P 3 ∧ P 5 ∧ P 7 ∧ P 11 ∧ P 13 ∧ P 17 := by
  simp only [bases, List.forall_mem_cons, List.not_mem_nil, false_imp_iff, implies_true, and_true]

theorem exists_mem_smallPrimes {P : Word → Prop} :
    (∃ p ∈ smallPrimes, P p) ↔
      P 2 ∨ P 3 ∨ P 5 ∨ P 7 ∨ P 11 ∨ P 13 ∨ P 17 ∨ P 19 ∨ P 23 ∨ P 29 ∨ P 31 ∨ P 37 := by
  simp only [smallPrimes, List.exists_mem_cons_iff, List.not_mem_nil, false_and, exists_false, or_false]

/-- A read inside the table answers, a read past it does not (20_memory.md R34). -/
theorem romRead_isSome (t : Table) (i : Nat) : (romRead t i).isSome = true ↔ i < (tableEntries t).length := by
  simp [romRead]

end Sys2Proof.Machine
end

