-- ==== Sys2Proof/Tests/Slice0.lean ====
section
/-! SUPPORT. The model's own tests: well-formedness, decoding of words the spec writes out, single steps with results
from spec/95_test_vectors.md, and for every statement with hypotheses a witness that meets them. -/

namespace Sys2Proof.Tests

open Sys2Proof.Machine

/-- A view of the next state, for tests. -/
def viewNext {α : Type} (o : Host.Outcome State Fault Refusal) (f : State → α) : Option α :=
  match o with
  | .next t => some (f t)
  | .fault _ => none
  | .refused _ => none

/-- The reset block with one sample on its ports. -/
def sampled (p : Ports) : State := { State.reset with inputs := [p] }

/-- A block in the middle of `mul_mod 3, 5, 7`. -/
def multiplying : State := { State.reset with phase := .mmExec, cx := 3, cy := 5, cz := 7 }

/-- A block in the middle of `pow_mod 3, 5, 7` (95 section 3.4). -/
def powering : State :=
  { State.reset with phase := .pmLoop, op := 1, cx := 3, cy := 5, cz := 7, xr := 1, xb := 3, xe := 5, xm := 7 }

/-- A block in the middle of `is_probable_prime 41` (`40 = 5 * 2^3`; 95 section 4.2), in a given phase. -/
def testing41 (p : Phase) : State :=
  { State.reset with phase := p, op := 2, cx := 41, d := 5, r := 3, xr := 1, xb := 2, xe := 5, xm := 41, x := 32 }

/-! ### Well-formedness: one ill-formed term for each check (30 R42, R51) -/

theorem test_wf_refuses_wide_op : ¬ (RawCommand.mk 4 0 0 0).WellFormed := by decide
theorem test_wf_refuses_wide_x : ¬ (RawCommand.mk 0 (2 ^ 64) 0 1).WellFormed := by decide
theorem test_wf_refuses_wide_y : ¬ (RawCommand.mk 1 0 (2 ^ 64) 1).WellFormed := by decide
theorem test_wf_refuses_wide_z : ¬ (RawCommand.mk 2 0 0 (2 ^ 64)).WellFormed := by decide
theorem test_wf_takes_the_largest : (RawCommand.mk 3 (2 ^ 64 - 1) (2 ^ 64 - 1) (2 ^ 64 - 1)).WellFormed := by decide

/-! ### Decoding: words written out from 30 R42, R46 and 95 section 2 -/

theorem test_decode_mul_mod :
    decode (3 * 2 ^ 128 + 5 * 2 ^ 64 + 7 : Nat) = .mulMod 3 5 7 := by decide
theorem test_decode_pow_mod :
    decode (2 ^ 192 + 3 * 2 ^ 128 + 5 * 2 ^ 64 + 7 : Nat) = .powMod 3 5 7 := by decide
theorem test_decode_is_probable_prime :
    decode (2 * 2 ^ 192 + 561 * 2 ^ 128 : Nat) = .isProbablePrime 561 0 0 := by decide
theorem test_decode_reserved :
    decode (3 * 2 ^ 192 + 2 ^ 128 + 2 * 2 ^ 64 : Nat) = .reserved 1 2 0 := by decide
theorem test_decode_top_bits :
    decode 0x0FFFFFFFFFFFFFFFFFFFFFFFFFFFFFFFFFFFFFFFFFFFFFFFF =
      .mulMod 0xFFFFFFFFFFFFFFFF 0xFFFFFFFFFFFFFFFF 0xFFFFFFFFFFFFFFFF := by decide
theorem test_decode_refuses_bit_194 : decodeNumber (2 ^ 194) = .error .widerThanCommandWord := by decide
theorem test_decode_table_word : decodeTableWord 200 (2 * 2 ^ 192) = some (.isProbablePrime 0 0 0) := by decide

/-! ### Accept and faults (95 section 3.1) -/

/-- Accept of a command by the reset block, as the host sees it afterwards. -/
def acceptView (i : Instr) : Option Outputs := viewNext (step (sampled (offerPorts (encode i)))) outputs

theorem test_mul_mod_zero_modulus :
    acceptView (.mulMod 1 2 0) = some ⟨true, false, true, 2, none, true⟩ := by decide
theorem test_pow_mod_zero_modulus_zero_exponent :
    acceptView (.powMod 2 0 0) = some ⟨true, false, true, 2, none, true⟩ := by decide
theorem test_reserved_before_zero_modulus :
    acceptView (.reserved 1 2 0) = some ⟨true, false, true, 1, none, true⟩ := by decide
theorem test_is_probable_prime_ignores_z :
    acceptView (.isProbablePrime 7 99 0) = some ⟨false, true, false, 0, none, false⟩ := by decide
theorem test_pow_mod_modulus_one_starts_at_zero :
    viewNext (exec (.powMod 5 0 1) State.reset) (fun t => (t.phase, t.xr)) = some (.pmLoop, 0) := by decide

/-! ### Controller steps (95 sections 3.2 to 4.4) -/

theorem test_mul_exec :
    viewNext (step { multiplying with cx := 0xFFFFFFFFFFFFFFFF, cy := 0xFFFFFFFFFFFFFFFF, cz := 0xFFFFFFFFFFFFFFC5 })
      (fun t => (t.phase, t.rspData)) = some (.idle, some 3364) := by decide
theorem test_mulmod_generic :
    mulmod 0xDEADBEEFCAFEBABE 0x0123456789ABCDEF 0xFEDCBA9876543211 = 0x316AC996517D6900 := by decide
theorem test_product_halves :
    productHalves 0xDEADBEEFCAFEBABE 0x0123456789ABCDEF = 0x00FD5BDEEEB2A01D7EB689F4EA447D62 := by decide
theorem test_pow_iteration :
    viewNext (step powering) (fun t => (t.phase, t.xr, t.xb, t.xe)) = some (.pmLoop, 3, 2, 2) := by decide
theorem test_pow_unreduced_base :
    viewNext (step { powering with xb := 1000, xe := 3 }) (fun t => (t.xr, t.xb, t.xe)) = some (6, 1, 1) := by decide
theorem test_pow_end :
    viewNext (step { powering with xr := 5, xb := 2, xe := 0 }) outputs =
      some ⟨true, false, true, 0, some 5, false⟩ := by decide
theorem test_range_check_one :
    viewNext (step { testing41 .ipRange with cx := 1 }) (fun t => (t.phase, t.rspData)) = some (.idle, some 0) := by
  decide
theorem test_trial_division_37 :
    viewNext (step { testing41 .ipTrial with cx := 37, pi := 11 }) (fun t => (t.phase, t.rspData)) =
      some (.idle, some 1) := by decide
theorem test_trial_division_1369 :
    viewNext (step { testing41 .ipTrial with cx := 1369, pi := 11 }) (fun t => (t.phase, t.rspData)) =
      some (.idle, some 0) := by decide
theorem test_trial_division_leaves_1763 :
    viewNext (step { testing41 .ipTrial with cx := 1763, pi := 11 }) (fun t => (t.phase, t.d, t.r)) =
      some (.ipDecomp, 1762, 0) := by decide
theorem test_decomposition_1762 :
    viewNext (step { testing41 .ipDecomp with cx := 1763, d := 1762, r := 0 }) (fun t => (t.phase, t.d, t.r)) =
      some (.ipDecomp, 881, 1) := by decide
theorem test_base_selection_1763 :
    viewNext (step { testing41 .ipBase with cx := 1763, d := 881, r := 1 })
      (fun t => (t.phase, t.xr, t.xb, t.xe, t.xm)) = some (.ipPow, 1, 2, 881, 1763) := by decide
theorem test_check_goes_on :
    viewNext (step { testing41 .ipCheck with cx := 1763, x := 1355, sq := 9 }) (fun t => (t.phase, t.sq)) =
      some (.ipSquare, 0) := by decide
theorem test_square_reaches_minus_one :
    viewNext (step (testing41 .ipSquare)) (fun t => (t.phase, t.x, t.sq, t.bi)) = some (.ipBase, 40, 1, 1) := by decide
theorem test_square_fails_without_squaring :
    viewNext (step { testing41 .ipSquare with cx := 1763, r := 1, x := 1355 }) (fun t => (t.phase, t.rspData, t.x)) =
      some (.idle, some 0, 1355) := by decide
theorem test_square_one_does_not_stop :
    viewNext (step { testing41 .ipSquare with cx := 561, r := 4, sq := 2, x := 67 }) (fun t => (t.phase, t.x)) =
      some (.ipSquare, 1) := by decide
theorem test_last_base_passes :
    viewNext (step { testing41 .ipCheck with x := 40, bi := 6 }) outputs =
      some ⟨true, false, true, 0, some 1, false⟩ := by decide
theorem test_reset_abandons_a_command :
    viewNext (step { powering with inputs := [resetPorts], errSticky := true }) outputs =
      some ⟨true, false, false, 0, none, false⟩ := by decide
theorem test_index_past_table_stops :
    (match step { testing41 .ipTrial with pi := 12 } with
      | .fault .romIndexOutOfRange => true
      | _ => false) = true := by decide
theorem test_status_group_after_fault :
    (viewNext (exec (.reserved 0 0 0) State.reset) statusGroup) = some 0b101101 := by decide

/-! ### Text and host programs (30 R51, R53; 95 section 6) -/

theorem test_assemble_line :
    assembleLine "$w  = pow_mod 2, 2^61-2, 0x6E3 # -> 1355".toList =
      .ok (some ⟨some ['w'], .powMod (.literal 2) (.literal 0x1FFFFFFFFFFFFFFE) (.literal 1763)⟩) := by decide
theorem test_assemble_variable :
    assembleLine "mul_mod $x, $x, 41".toList =
      .ok (some ⟨none, .mulMod (.variable ['x']) (.variable ['x']) (.literal 41)⟩) := by decide
theorem test_assemble_binding_without_blanks :
    assembleLine "$ x=mul_mod 1, 2, 3".toList =
      .ok (some ⟨some ['x'], .mulMod (.literal 1) (.literal 2) (.literal 3)⟩) := by decide
theorem test_assemble_refuses_wide_literal :
    assembleLine "is_probable_prime 2^64".toList = .error .literalOutOfRange := by decide
theorem test_line_word :
    lineWord [(['x'], 32)] (.mulMod (.variable ['x']) (.variable ['x']) (.literal 41)) =
      some 0x0000000000000002000000000000000200000000000000029 := by decide
theorem test_host_line_with_variables :
    (match hostRun 3 { hostStart State.reset
        [⟨some ['y'], .mulMod (.variable ['x']) (.variable ['x']) (.literal 41)⟩] with vars := [(['x'], 32)] } with
      | .next h => hostDone h && lookupVar h.vars ['y'] == some 40 && lookupVar h.vars ['x'] == some 32
      | _ => false) = true := by decide
theorem test_host_refuses_data_of_a_fault :
    (match hostRun 2 (hostStart State.reset [⟨some ['a'], .raw 0x3000000000000000000000000000000000000000000000000⟩]) with
      | .refused .hostReadsNoValue => true
      | _ => false) = true := by decide

/-! ### Witnesses: for every statement with hypotheses, data that meet all of them -/

theorem noResetFor_released {s : State} (h : s.inputs = []) (k : Nat) : NoResetFor k s := by
  simp [NoResetFor, h]

/-- The invariant holds of the block testing 41, in the phases after the decomposition. -/
theorem passed41 : PassedTrialDivision 41 := by
  refine ⟨by decide, ?_⟩
  rw [forall_mem_smallPrimes]
  decide

theorem witness_invariant_base : StateInvariant { testing41 .ipBase with bi := 6 } :=
  ⟨by decide, by decide, passed41, by decide⟩
theorem witness_invariant_square : StateInvariant (testing41 .ipSquare) :=
  ⟨by decide, by decide, passed41, by decide, by decide, by decide⟩
theorem witness_invariant_idle : StateInvariant State.reset := ⟨by decide, by decide, trivial⟩

theorem witness_EncodeOfDecode : ∃ (i : Instr) (w : CommandWord), encode i = w := ⟨.mulMod 3 5 7, _, rfl⟩
theorem witness_StepRunsTheOfferedCommand :
    (∃ (s : State) (i : Instr), s.phase = .idle ∧ (sampleOf s).rst = false ∧ (sampleOf s).cmdValid = true ∧
      decode (portsWord (sampleOf s)) = i ∧ i.WellFormed) ∧
    ∃ (nbits w : Nat) (i : Instr), decodeTableWord nbits w = some i :=
  ⟨⟨sampled (offerPorts (encode (.mulMod 3 5 7))), .mulMod 3 5 7, by decide⟩,
    200, 3 * 2 ^ 128 + 5 * 2 ^ 64 + 7, .mulMod 3 5 7, by decide⟩
theorem witness_ResetHasPriority : ∃ s : State, (sampleOf s).rst = true ∧ busy s = true :=
  ⟨{ powering with inputs := [resetPorts] }, by decide⟩
theorem witness_IdleBlockKeepsItsResponse :
    ∃ s : State, s.phase = .idle ∧ (sampleOf s).rst = false ∧ (sampleOf s).cmdValid = false :=
  ⟨State.reset, by decide⟩
theorem witness_CommandPortsAreIgnoredWhenNotReady :
    (∃ (s : State) (p q : Ports), cmdReady { s with inputs := [p] } = false ∧ p.rst = false ∧ q.rst = p.rst ∧ p ≠ q) ∧
    ∃ (s : State) (p q : Ports), cmdReady { s with inputs := [p] } = false ∧ p.rst = true ∧ q.rst = p.rst ∧ p ≠ q :=
  ⟨⟨powering, offerPorts 7, releasedPorts, by decide⟩,
    State.reset, resetPorts, { resetPorts with cmdValid := true }, by decide⟩
theorem witness_CommandOfferedWhileBusyChangesNothing : ∃ s : State, busy s = true := ⟨powering, by decide⟩
theorem witness_MulModIsAccepted :
    ∃ (s : State) (m : Word), s.phase = .idle ∧ m ≠ 0 := ⟨State.reset, 1, by decide⟩
theorem witness_PowModIsAccepted :
    ∃ s : State, s.phase = .idle ∧ (1 : Word) ≠ 0 ∧ (2 : Word) ≠ 0 := ⟨State.reset, by decide⟩
theorem witness_idle_block : ∃ s : State, s.phase = .idle ∧ s.rspErr = 1 ∧ s.errSticky = true :=
  ⟨{ State.reset with rspErr := 1, rspValid := true, errSticky := true }, by decide⟩
theorem witness_NextAcceptClearsTheFaultCode :
    ∃ (i : Instr) (s : State), s.phase = .idle ∧ i.InDomain := ⟨.mulMod 1 2 3, State.reset, by decide⟩
theorem witness_MulModAnswersTheProductModM :
    (∃ (m : Word) (s : State), s.phase = .idle ∧ m ≠ 0 ∧ NoResetFor 1 s) ∧
    ∃ s : State, s.phase = .mmExec ∧ s.cz ≠ 0 ∧ (sampleOf s).rst = false :=
  ⟨⟨1, sampled (offerPorts 7), by decide⟩, multiplying, by decide⟩
theorem witness_PowModAnswersThePowerModM :
    ∃ (e m : Word) (s : State), s.phase = .idle ∧ m ≠ 0 ∧ NoResetFor (bitlen e + 1) s ∧ bitlen e = 64 :=
  ⟨0xFFFFFFFFFFFFFFFF, 1, State.reset, rfl, by decide, noResetFor_released rfl _, by decide⟩
theorem witness_IsProbablePrimeAnswersTheVerdict : ∃ s : State, s.phase = .idle ∧ NoResetFor 546 s :=
  ⟨State.reset, rfl, noResetFor_released rfl _⟩
theorem witness_IsProbablePrimeOperationBound : ∃ s : State, s.phase = .idle ∧ s.inputs = [] :=
  ⟨State.reset, rfl, rfl⟩
theorem witness_IsProbablePrimeOperationBound_driven :
    ∃ (s t : State) (k : Nat), s.phase = .idle ∧ s.inputs ≠ [] ∧ exec (.isProbablePrime 41 0 0) s = .next t ∧ 0 < k ∧
      ∀ j < k, ∃ u, run j t = .next u ∧ busy u = true :=
  ⟨sampled (offerPorts 7), _, 1, rfl, by decide, rfl, by decide, fun j hj => by
    obtain rfl := Nat.lt_one_iff.1 hj
    exact ⟨_, rfl, rfl⟩⟩
theorem witness_IsProbablePrimeOperationBound_power :
    ∃ s : State, s.phase = .ipPow ∧ s.xm ≠ 0 ∧ NoResetFor (bitlen s.xe + 1) s ∧ bitlen s.xe = 64 :=
  ⟨{ testing41 .ipPow with xe := 0xFFFFFFFFFFFFFFFF }, rfl, by decide, noResetFor_released rfl _, by decide⟩
theorem witness_IsProbablePrimeOperationBound_square :
    (∃ s : State, s.phase = .ipSquare ∧ (sampleOf s).rst = false ∧ s.sq.toNat + 1 < s.r.toNat) ∧
    ∃ s : State, s.phase = .ipSquare ∧ (sampleOf s).rst = false ∧ ¬ s.sq.toNat + 1 < s.r.toNat :=
  ⟨⟨{ testing41 .ipSquare with sq := 1 }, by decide⟩, { testing41 .ipSquare with sq := 2 }, by decide⟩
theorem witness_modulus_not_zero : ∃ m : Word, m ≠ 0 := ⟨1, by decide⟩
theorem witness_RestoringDivisionIsExact : ∃ (m : Word) (rem : BitVec 65), m ≠ 0 ∧ rem < m.setWidth 65 :=
  ⟨0xFFFFFFFFFFFFFFFF, 0xFFFFFFFFFFFFFFFE, by decide⟩
theorem witness_PowmodExponentLaw :
    ∃ e f m : Word, m ≠ 0 ∧ e.toNat + f.toNat < 2 ^ 64 := ⟨0xFFFFFFFFFFFFFFFE, 1, 7, by decide⟩
theorem witness_IterationsOfTheExponentiator : ∃ s : State, s.xm ≠ 0 ∧ s.xr < s.xm ∧ 0 < 1 := ⟨powering, by decide⟩
theorem witness_PowModLoopStep :
    (∃ s : State, s.phase = .pmLoop ∧ (sampleOf s).rst = false ∧ s.xe = 0) ∧
    ∃ s : State, s.phase = .pmLoop ∧ (sampleOf s).rst = false ∧ s.xe ≠ 0 ∧ s.xm ≠ 0 :=
  ⟨⟨{ powering with xe := 0 }, by decide⟩, powering, by decide⟩
theorem witness_RangeCheckStep :
    (∃ s : State, s.phase = .ipRange ∧ (sampleOf s).rst = false ∧ s.cx.toNat < 2) ∧
    ∃ s : State, s.phase = .ipRange ∧ (sampleOf s).rst = false ∧ 2 ≤ s.cx.toNat :=
  ⟨⟨{ testing41 .ipRange with cx := 1 }, by decide⟩, { testing41 .ipRange with cx := 2 }, by decide⟩
theorem witness_TrialDivisionStep :
    (∃ (s : State) (p : Word), s.phase = .ipTrial ∧ (sampleOf s).rst = false ∧ smallPrimes[s.pi.toNat]? = some p ∧
      s.cx.toNat % p.toNat = 0) ∧
    (∃ (s : State) (p : Word), s.phase = .ipTrial ∧ (sampleOf s).rst = false ∧ smallPrimes[s.pi.toNat]? = some p ∧
      s.cx.toNat % p.toNat ≠ 0 ∧ s.pi = 11) ∧
    ∃ (s : State) (p : Word), s.phase = .ipTrial ∧ (sampleOf s).rst = false ∧ smallPrimes[s.pi.toNat]? = some p ∧
      s.cx.toNat % p.toNat ≠ 0 ∧ s.pi ≠ 11 :=
  ⟨⟨{ testing41 .ipTrial with cx := 37, pi := 11 }, 37, by decide⟩,
    ⟨{ testing41 .ipTrial with pi := 11 }, 37, by decide⟩, { testing41 .ipTrial with pi := 10 }, 31, by decide⟩
theorem witness_DecompositionStep :
    (∃ s : State, s.phase = .ipDecomp ∧ (sampleOf s).rst = false ∧ s.d.getLsbD 0 = false ∧ s.r ≠ 63) ∧
    ∃ s : State, s.phase = .ipDecomp ∧ (sampleOf s).rst = false ∧ s.d.getLsbD 0 = true :=
  ⟨⟨{ testing41 .ipDecomp with d := 2, r := 62 }, by decide⟩, testing41 .ipDecomp, by decide⟩
theorem witness_BaseSelectionNeverSkips :
    ∃ s : State, StateInvariant s ∧ s.phase = .ipBase ∧ (sampleOf s).rst = false :=
  ⟨_, witness_invariant_base, by decide⟩
theorem witness_WitnessPowerStep :
    (∃ s : State, s.phase = .ipPow ∧ (sampleOf s).rst = false ∧ s.xe = 0) ∧
    ∃ s : State, s.phase = .ipPow ∧ (sampleOf s).rst = false ∧ s.xe ≠ 0 ∧ s.xm ≠ 0 :=
  ⟨⟨{ testing41 .ipPow with xe := 0 }, by decide⟩, testing41 .ipPow, by decide⟩
theorem witness_FirstCheckStep :
    (∃ s : State, s.phase = .ipCheck ∧ (sampleOf s).rst = false ∧
      (s.x.toNat = 1 ∨ s.x.toNat + 1 = s.cx.toNat) ∧ s.bi.toNat < 6) ∧
    (∃ s : State, s.phase = .ipCheck ∧ (sampleOf s).rst = false ∧
      (s.x.toNat = 1 ∨ s.x.toNat + 1 = s.cx.toNat) ∧ s.bi = 6) ∧
    ∃ s : State, s.phase = .ipCheck ∧ (sampleOf s).rst = false ∧
      ¬ (s.x.toNat = 1 ∨ s.x.toNat + 1 = s.cx.toNat) :=
  ⟨⟨{ testing41 .ipCheck with x := 1, bi := 5 }, by decide⟩, ⟨{ testing41 .ipCheck with x := 40, bi := 6 }, by decide⟩,
    testing41 .ipCheck, by decide⟩
theorem witness_SquaringStep :
    (∃ s : State, s.phase = .ipSquare ∧ (sampleOf s).rst = false ∧ s.cx ≠ 0 ∧ s.r.toNat ≤ s.sq.toNat + 1) ∧
    (∃ s : State, s.phase = .ipSquare ∧ (sampleOf s).rst = false ∧ s.cx ≠ 0 ∧ s.sq.toNat + 1 < s.r.toNat ∧
      (mulmod s.x s.x s.cx).toNat + 1 ≠ s.cx.toNat) ∧
    (∃ s : State, s.phase = .ipSquare ∧ (sampleOf s).rst = false ∧ s.cx ≠ 0 ∧ s.sq.toNat + 1 < s.r.toNat ∧
      (mulmod s.x s.x s.cx).toNat + 1 = s.cx.toNat ∧ s.bi.toNat < 6) ∧
    ∃ s : State, s.phase = .ipSquare ∧ (sampleOf s).rst = false ∧ s.cx ≠ 0 ∧ s.sq.toNat + 1 < s.r.toNat ∧
      (mulmod s.x s.x s.cx).toNat + 1 = s.cx.toNat ∧ s.bi = 6 :=
  ⟨⟨{ testing41 .ipSquare with sq := 2 }, by decide⟩, ⟨{ testing41 .ipSquare with x := 38 }, by decide⟩,
    ⟨{ testing41 .ipSquare with bi := 5, sq := 1 }, by decide⟩, { testing41 .ipSquare with bi := 6 }, by decide⟩
theorem witness_DecompositionIsExact : ∃ n : Word, 3 ≤ n.toNat ∧ n.toNat % 2 = 1 := ⟨3, by decide⟩
theorem witness_UndecidedCandidatesAreAtLeast41 : ∃ n : Word, 2 ≤ n.toNat ∧ trialDivision n smallPrimes = none :=
  ⟨41, by decide⟩
theorem witness_StrongCheckMeaning : ∃ (n : Word) (r : Nat), 2 ≤ n.toNat ∧ 1 ≤ r := ⟨2, 1, by decide⟩
theorem witness_SmallPrimesAndTheirMultiples :
    (∃ n : Word, n.toNat < 2) ∧ (37 : Word) ∈ smallPrimes ∧ (74 : Word).toNat % (37 : Word).toNat = 0 ∧ (74 : Word) ≠ 37 :=
  ⟨⟨1, by decide⟩, by decide⟩
theorem witness_PrimesAreNeverRejected : ∃ n : Word, n.toNat.Prime := ⟨2, Nat.prime_two⟩
theorem witness_ConstantTables : 12 ≤ 12 ∧ 7 ≤ 7 ∧ 39 < 40 := by decide
theorem witness_invariant_step : ∃ s t : State, StateInvariant s ∧ step s = .next t :=
  ⟨State.reset, State.reset, witness_invariant_idle, rfl⟩
theorem witness_EveryCommandEnds : ∃ s : State, StateInvariant s ∧ NoResetFor 546 s ∧ busy s = true :=
  ⟨_, witness_invariant_square, noResetFor_released rfl _, by decide⟩
theorem witness_ErrStickyRecordsFaults :
    (∃ s t : State, step s = .next t ∧ (sampleOf s).rst = true) ∧
    (∃ s t : State, step s = .next t ∧ (sampleOf s).rst = false ∧ acceptsNow s = true ∧
      ¬ (decode (portsWord (sampleOf s))).InDomain) ∧
    ∃ s t : State, step s = .next t ∧ (sampleOf s).rst = false ∧ acceptsNow s = true ∧
      (decode (portsWord (sampleOf s))).InDomain :=
  ⟨⟨sampled resetPorts, _, rfl, by decide⟩, ⟨sampled (offerPorts (encode (.reserved 1 2 3))), _, rfl, by decide⟩,
    sampled (offerPorts (encode (.mulMod 1 2 3))), _, rfl, by decide⟩
theorem witness_LatchesAreWrittenOnlyByAccept :
    ∃ s t : State, step s = .next t ∧ (sampleOf s).rst = false ∧ acceptsNow s = false ∧ busy s = true :=
  ⟨multiplying, _, rfl, by decide⟩
theorem witness_HostReadsOnlyValidResponses :
    (∃ (s : State) (v : Word), hostReadData s = some v) ∧
    (∃ (s : State) (c : BitVec 2), hostReadErr s = some c) ∧
    (∃ s : State, StateInvariant s ∧ s.rspValid = true ∧ s.rspErr = 0) ∧ ∃ s : State, StateInvariant s ∧ busy s = true :=
  ⟨⟨{ State.reset with rspValid := true, rspData := some 5 }, 5, by decide⟩,
    ⟨{ State.reset with rspValid := true, rspErr := 2 }, 2, by decide⟩,
    ⟨{ State.reset with rspValid := true, rspData := some 5 }, ⟨by decide, by decide, trivial⟩, by decide⟩,
    _, witness_invariant_square, by decide⟩
theorem witness_ResponseDependsOnTheCommandAlone :
    ∃ s₁ s₂ : State, StateInvariant s₁ ∧ StateInvariant s₂ ∧ s₁.phase = .idle ∧ s₂.phase = .idle ∧
      s₁.inputs = [] ∧ s₂.inputs = [] ∧ s₁ ≠ s₂ :=
  ⟨State.reset, { State.reset with cx := 7, rspValid := true, rspData := some 5 }, witness_invariant_idle,
    ⟨by decide, by decide, trivial⟩, by decide⟩
theorem witness_PhaseMovesAlongTheEdges :
    (∃ s t : State, step s = .next t ∧ (sampleOf s).rst = true ∧ s.phase = .ipDecomp) ∧
    (∃ s t : State, step s = .next t ∧ (sampleOf s).rst = false ∧ s.phase = .ipPow) ∧
    ∃ s t : State, step s = .next t ∧ (sampleOf s).rst = false ∧ s.phase = .idle ∧ t.phase ≠ .idle :=
  ⟨⟨{ testing41 .ipDecomp with inputs := [resetPorts] }, _, rfl, by decide⟩, ⟨testing41 .ipPow, _, rfl, by decide⟩,
    sampled (offerPorts (encode (.mulMod 1 2 3))), _, rfl, by decide⟩
theorem witness_HostLineBindsItsResult :
    (∃ (h : HostState) (line : HostLine) (rest : List HostLine) (w : CommandWord),
      h.block.phase = .idle ∧ h.waiting = none ∧ h.todo = line :: rest ∧
      lineWord h.vars line.command = some w ∧ line.bind ≠ none ∧ (commandResponse (decode w)).2 ≠ none) ∧
    (∃ (h : HostState) (line : HostLine) (rest : List HostLine) (w : CommandWord),
      h.block.phase = .idle ∧ h.waiting = none ∧ h.todo = line :: rest ∧
      lineWord h.vars line.command = some w ∧ line.bind = none ∧ (commandResponse (decode w)).2 = none) ∧
    ∃ (h : HostState) (line : HostLine) (rest : List HostLine) (w : CommandWord),
      h.block.phase = .idle ∧ h.waiting = none ∧ h.todo = line :: rest ∧
      lineWord h.vars line.command = some w ∧ line.bind ≠ none ∧ (commandResponse (decode w)).2 = none :=
  ⟨⟨{ hostStart State.reset [⟨some ['y'], .powMod (.variable ['x']) (.literal 5) (.literal 7)⟩] with
        vars := [(['x'], 3)] }, _, [], _, rfl, rfl, rfl, rfl, by decide⟩,
    ⟨hostStart State.reset [⟨none, .mulMod (.literal 1) (.literal 2) (.literal 0)⟩], _, [], _, rfl, rfl, rfl, rfl,
      by decide⟩,
    hostStart State.reset [⟨some ['a'], .raw 0x3000000000000000000000000000000000000000000000000⟩], _, [], _, rfl, rfl,
      rfl, rfl, by decide⟩
theorem witness_RenderedLineAssemblesToItsWord :
    ∃ (i : Instr) (text : List Char), renderLine i = some text := ⟨.mulMod 3 5 7, _, rfl⟩
theorem witness_BlocksShareNothing :
    ∃ (k : Nat) (bs cs : Blocks), stepBlockAt k bs = .next cs ∧ (0 : Nat) ≠ k ∧ bs.length = 2 :=
  ⟨1, resetBlocks 2, _, rfl, by decide⟩
theorem witness_OnlyResetIsEnabledBeforeTheFirstReset :
    (∃ p : Ports, p.rst = false) ∧ (∃ p : Ports, p.rst = true) ∧ ∃ s t : State, step s = .next t :=
  ⟨⟨releasedPorts, rfl⟩, ⟨resetPorts, rfl⟩, State.reset, State.reset, rfl⟩

end Sys2Proof.Tests
end

/-! PROOFS. The invariant of the block holds at reset and is kept by every step: small facts about words, tables and the
response registers, then one lemma for accept and one for each controller phase. -/

namespace Sys2Proof.Machine

/-! ### Words, tables and remainders -/

theorem lowBit_eq_true_iff {e : Word} : lowBit e = true ↔ e.toNat % 2 = 1 := by
  simp [lowBit, BitVec.getLsbD, Nat.testBit_zero]

theorem lowBit_eq_false_iff {e : Word} : lowBit e = false ↔ e.toNat % 2 = 0 := by
  rw [← Bool.not_eq_true, lowBit_eq_true_iff]
  omega

/-- 40_widening_multiplier.md R58: a value of `mulmod` is below its modulus. -/
theorem mulmod_lt {m : Word} (hm : m ≠ 0) (a b : Word) : mulmod a b m < m := by
  have hpos : 0 < m.toNat := by bv_omega
  have hmod : (product a b).toNat % m.toNat < m.toNat := Nat.mod_lt _ hpos
  have hfit : m.toNat % 2 ^ 128 = m.toNat := Nat.mod_eq_of_lt (by omega)
  rw [BitVec.lt_def, mulmod, reduce, BitVec.toNat_setWidth, BitVec.toNat_umod, BitVec.toNat_setWidth, hfit]
  exact (Nat.mod_le _ _).trans_lt hmod

theorem trialRem_eq_zero_iff {n p : Word} : trialRem n p = 0 ↔ n.toNat % p.toNat = 0 := by
  simp [trialRem, BitVec.toNat_eq]

/-- Every number from 2 to 40 has a divisor in `SMALL_PRIME`. -/
theorem exists_smallPrime_dvd : ∀ n < 41, 2 ≤ n → ∃ p ∈ smallPrimes, n % p.toNat = 0 := by
  simp only [exists_mem_smallPrimes]
  decide

/-- 42_miller_rabin_test.md R81: the range check and the whole of trial division leave candidates of at least 41. -/
theorem passedTrialDivision_of_forall {n : Word} (h2 : 2 ≤ n.toNat)
    (hn : ∀ p ∈ smallPrimes, n.toNat % p.toNat ≠ 0) : PassedTrialDivision n := by
  refine ⟨?_, hn⟩
  by_contra hlt
  obtain ⟨p, hp, hdvd⟩ := exists_smallPrime_dvd n.toNat (by omega) h2
  exact hn p hp hdvd

theorem PassedTrialDivision.odd {n : Word} (h : PassedTrialDivision n) : n.toNat % 2 = 1 := by
  have h2 : n.toNat % 2 ≠ 0 := h.2 2 (by simp [smallPrimes])
  omega

theorem PassedTrialDivision.ne_zero {n : Word} (h : PassedTrialDivision n) : n ≠ 0 := by
  rintro rfl
  exact absurd h.1 (by decide)

/-- One more entry that does not divide `n`. -/
theorem forall_take_succ {n : Word} {i : Nat} {p : Word} (hp : romRead .smallPrime i = some p)
    (hn : ∀ q ∈ smallPrimes.take i, n.toNat % q.toNat ≠ 0) (hrem : trialRem n p ≠ 0) :
    ∀ q ∈ smallPrimes.take (i + 1), n.toNat % q.toNat ≠ 0 := by
  have hp : smallPrimes[i]? = some p := hp
  intro q hq
  rw [List.take_add_one, hp, List.mem_append] at hq
  obtain hq | hq := hq
  · exact hn q hq
  · obtain rfl : q = p := by simpa using hq
    exact fun h0 => hrem (trialRem_eq_zero_iff.2 h0)

/-! ### The invariant, phase by phase -/

section
variable {s : State}

theorem phaseInvariant_of_idle (h : s.phase = .idle) : PhaseInvariant s := by
  simp only [PhaseInvariant, h]

theorem phaseInvariant_mmExec (h : s.phase = .mmExec) : PhaseInvariant s ↔ s.cz ≠ 0 := by
  simp only [PhaseInvariant, h]

theorem phaseInvariant_pmLoop (h : s.phase = .pmLoop) : PhaseInvariant s ↔ s.xm = s.cz ∧ s.xr < s.xm := by
  simp only [PhaseInvariant, h]

theorem phaseInvariant_of_ipRange (h : s.phase = .ipRange) : PhaseInvariant s := by
  simp only [PhaseInvariant, h]

theorem phaseInvariant_ipTrial (h : s.phase = .ipTrial) :
    PhaseInvariant s ↔ 2 ≤ s.cx.toNat ∧ ∀ p ∈ smallPrimes.take s.pi.toNat, s.cx.toNat % p.toNat ≠ 0 := by
  simp only [PhaseInvariant, h]

theorem phaseInvariant_ipDecomp (h : s.phase = .ipDecomp) :
    PhaseInvariant s ↔ PassedTrialDivision s.cx ∧ s.d.toNat * 2 ^ s.r.toNat + 1 = s.cx.toNat := by
  simp only [PhaseInvariant, h]

theorem phaseInvariant_ipBase (h : s.phase = .ipBase) :
    PhaseInvariant s ↔ PassedTrialDivision s.cx ∧ Decomposed s := by
  simp only [PhaseInvariant, h]

theorem phaseInvariant_ipPow (h : s.phase = .ipPow) :
    PhaseInvariant s ↔ PassedTrialDivision s.cx ∧ Decomposed s ∧ s.xm = s.cx ∧ s.xr < s.xm := by
  simp only [PhaseInvariant, h]

theorem phaseInvariant_ipCheck (h : s.phase = .ipCheck) :
    PhaseInvariant s ↔ PassedTrialDivision s.cx ∧ Decomposed s ∧ s.x < s.cx := by
  simp only [PhaseInvariant, h]

theorem phaseInvariant_ipSquare (h : s.phase = .ipSquare) :
    PhaseInvariant s ↔
      PassedTrialDivision s.cx ∧ Decomposed s ∧ s.x < s.cx ∧ s.sq.toNat + 1 ≤ s.r.toNat := by
  simp only [PhaseInvariant, h]

end

/-! ### The response registers -/

/-- The response registers between accept and the end of a command (30_encoding.md R49). -/
def EmptyResponse (s : State) : Prop := s.rspValid = false ∧ s.rspErr = 0 ∧ s.rspData = none

/-- While a command runs, the consistent response registers are the empty ones. -/
theorem ResponseConsistent.empty_of_busy {s : State} (h : ResponseConsistent s) (hb : busy s = true) :
    EmptyResponse s := by
  obtain ⟨-, hcode, hdata, hbusy⟩ := h
  have hv : s.rspValid = false := hbusy hb
  exact ⟨hv, by simpa [hv] using hcode, by simpa [hv] using hdata⟩

theorem EmptyResponse.consistent {s : State} (h : EmptyResponse s) : ResponseConsistent s := by
  obtain ⟨hv, he, hd⟩ := h
  simp [ResponseConsistent, hv, he, hd]

/-! ### The two ends of a command, and reset -/

theorem stateInvariant_complete {s : State} (hi : IndicesInRange s) (v : Word) :
    StateInvariant (complete v s) :=
  ⟨hi, by simp [ResponseConsistent, busy], phaseInvariant_of_idle rfl⟩

theorem stateInvariant_raiseFault {s : State} (hi : IndicesInRange s) (c : FaultCode) :
    StateInvariant (raiseFault c s) :=
  ⟨hi, by cases c <;> simp [ResponseConsistent, busy, faultCodeBits], phaseInvariant_of_idle rfl⟩

theorem stateInvariant_resetBlock (s : State) : StateInvariant (resetBlock s) :=
  ⟨(by decide : IndicesInRange State.reset), by simp [ResponseConsistent, busy, State.reset],
    phaseInvariant_of_idle rfl⟩

theorem StateInvariant.after_dropSample {s : State} (h : StateInvariant s) :
    StateInvariant (dropSample s) := h

/-! ### Accept keeps the invariant -/

/-- A command that goes on with a modulus of 0 ends at once; otherwise its own part decides. -/
theorem stateInvariant_withModulus {m : Word} {k : State → State} {s : State} (hi : IndicesInRange s)
    (hk : m ≠ 0 → StateInvariant (k s)) : StateInvariant (withModulus m k s) := by
  by_cases hm : m = 0
  · subst hm
    rw [withModulus_zero]
    exact stateInvariant_raiseFault hi _
  · rw [withModulus_ne hm]
    exact hk hm

theorem one_umod_lt {m : Word} (hm : m ≠ 0) : 1 % m < m :=
  BitVec.umod_lt _ ((BitVec.pos_iff_ne_zero m).2 hm)

theorem exec_keepsInvariant {i : Instr} {s t : State} (hidle : s.phase = .idle) (hi : IndicesInRange s)
    (h : exec i s = .next t) : StateInvariant t := by
  rw [exec_idle hidle] at h
  cases h
  cases i with
  | mulMod a b m =>
    exact stateInvariant_withModulus hi fun hm =>
      ⟨hi, EmptyResponse.consistent ⟨rfl, rfl, rfl⟩, (phaseInvariant_mmExec rfl).2 hm⟩
  | powMod a e m =>
    exact stateInvariant_withModulus hi fun hm =>
      ⟨hi, EmptyResponse.consistent ⟨rfl, rfl, rfl⟩, (phaseInvariant_pmLoop rfl).2 ⟨rfl, one_umod_lt hm⟩⟩
  | isProbablePrime n y z =>
    exact ⟨hi, EmptyResponse.consistent ⟨rfl, rfl, rfl⟩, phaseInvariant_of_ipRange rfl⟩
  | reserved x y z => exact stateInvariant_raiseFault hi _

/-! ### Each controller step keeps the invariant -/

/-- `mexp_iter` keeps the running result below the modulus (10_state.md R21). -/
theorem mexpIter_xr_lt {s : State} (hm : s.xm ≠ 0) (h : s.xr < s.xm) : (mexpIter s).xr < (mexpIter s).xm := by
  rw [mexpIter_xr, mexpIter_xm]
  split
  · exact mulmod_lt hm _ _
  · exact h

/-- The halving of `IP_DECOMP` leaves `D * 2^R` as it is. -/
theorem halving_keeps_product {d : Word} {r : BitVec 6} (hd : lowBit d = false) (hr : r ≠ 63) :
    (d >>> 1).toNat * 2 ^ (r + 1).toNat = d.toNat * 2 ^ r.toNat := by
  have hr1 : (r + 1).toNat = r.toNat + 1 := by bv_omega
  have hd2 : d.toNat % 2 = 0 := lowBit_eq_false_iff.1 hd
  rw [hr1, BitVec.toNat_ushiftRight, Nat.shiftRight_one, pow_succ', ← mul_assoc,
    Nat.div_mul_cancel (Nat.dvd_of_mod_eq_zero hd2)]

/-- The halvings end with `R >= 1`: an odd `D` with `R = 0` would make the candidate even. -/
theorem decomposed_of_lowBit {s : State} (hn : PassedTrialDivision s.cx) (hd : lowBit s.d = true)
    (hprod : s.d.toNat * 2 ^ s.r.toNat + 1 = s.cx.toNat) : Decomposed s := by
  refine ⟨hd, ?_, hprod⟩
  by_contra hr
  have hr0 : s.r.toNat = 0 := by omega
  have hodd : s.d.toNat % 2 = 1 := lowBit_eq_true_iff.1 hd
  have hcx : s.cx.toNat % 2 = 1 := hn.odd
  rw [hr0, pow_zero, mul_one] at hprod
  omega

section
variable {s t : State} (hi : IndicesInRange s) (he : EmptyResponse s)
include hi

theorem stepMmExec_keepsInvariant (h : stepMmExec s = .next t) : StateInvariant t := by
  obtain ⟨-, rfl⟩ := stepMmExec_next h
  exact stateInvariant_complete hi _

include he

theorem nextBase_keepsInvariant (hn : PassedTrialDivision s.cx) (hd : Decomposed s)
    (h : nextBase s = .next t) : StateInvariant t := by
  obtain ⟨-, rfl⟩ | ⟨h6, h7, rfl⟩ := nextBase_next h
  · exact stateInvariant_complete hi _
  · obtain ⟨hpi, hbi, hsq⟩ := hi
    have hbi' : (s.bi + 1).toNat ≤ 6 := by bv_omega
    exact ⟨⟨hpi, hbi', hsq⟩, EmptyResponse.consistent he, (phaseInvariant_ipBase rfl).2 ⟨hn, hd⟩⟩

theorem stepPmLoop_keepsInvariant (hphase : s.phase = .pmLoop) (hp : PhaseInvariant s)
    (h : stepPmLoop s = .next t) : StateInvariant t := by
  obtain ⟨hxm, hxr⟩ := (phaseInvariant_pmLoop hphase).1 hp
  obtain ⟨-, rfl⟩ | ⟨-, hm, rfl⟩ := stepPmLoop_next h
  · exact stateInvariant_complete hi _
  · exact ⟨hi, EmptyResponse.consistent he,
      (phaseInvariant_pmLoop (s := mexpIter s) hphase).2 ⟨hxm, mexpIter_xr_lt hm hxr⟩⟩

theorem stepIpRange_keepsInvariant (h : stepIpRange s = .next t) : StateInvariant t := by
  obtain ⟨-, rfl⟩ | ⟨h2, rfl⟩ := stepIpRange_next h
  · exact stateInvariant_complete hi _
  · have h2 : 2 ≤ s.cx.toNat := by bv_omega
    exact ⟨⟨Nat.zero_le _, hi.2⟩, EmptyResponse.consistent he, (phaseInvariant_ipTrial rfl).2 ⟨h2, by simp⟩⟩

theorem stepIpTrial_keepsInvariant (hphase : s.phase = .ipTrial) (hp : PhaseInvariant s)
    (h : stepIpTrial s = .next t) : StateInvariant t := by
  obtain ⟨h2, htake⟩ := (phaseInvariant_ipTrial hphase).1 hp
  obtain ⟨p, hread, ⟨-, rfl⟩ | ⟨hrem, h11, rfl⟩ | ⟨hrem, h11, rfl⟩⟩ := stepIpTrial_next h
  · exact stateInvariant_complete hi _
  · have hall : ∀ q ∈ smallPrimes, s.cx.toNat % q.toNat ≠ 0 := by
      have htake' := forall_take_succ hread htake hrem
      rwa [h11] at htake'
    have hpred : (s.cx - 1).toNat + 1 = s.cx.toNat := by bv_omega
    have hd : (s.cx - 1).toNat * 2 ^ (0 : BitVec 6).toNat + 1 = s.cx.toNat := by
      rw [show (0 : BitVec 6).toNat = 0 from rfl, pow_zero, mul_one, hpred]
    exact ⟨hi, EmptyResponse.consistent he,
      (phaseInvariant_ipDecomp rfl).2 ⟨passedTrialDivision_of_forall h2 hall, hd⟩⟩
  · obtain ⟨hpi, hrest⟩ := hi
    have hpi1 : (s.pi + 1).toNat = s.pi.toNat + 1 := by bv_omega
    have hpi' : (s.pi + 1).toNat ≤ 11 := by bv_omega
    refine ⟨⟨hpi', hrest⟩, EmptyResponse.consistent he,
      (phaseInvariant_ipTrial (s := { s with pi := s.pi + 1 }) hphase).2 ⟨h2, ?_⟩⟩
    simp only [hpi1]
    exact forall_take_succ hread htake hrem

theorem stepIpDecomp_keepsInvariant (hphase : s.phase = .ipDecomp) (hp : PhaseInvariant s)
    (h : stepIpDecomp s = .next t) : StateInvariant t := by
  obtain ⟨hn, hprod⟩ := (phaseInvariant_ipDecomp hphase).1 hp
  obtain ⟨hd, rfl⟩ | ⟨hd, hr, rfl⟩ := stepIpDecomp_next h
  · obtain ⟨hpi, -, hsq⟩ := hi
    exact ⟨⟨hpi, Nat.zero_le _, hsq⟩, EmptyResponse.consistent he,
      (phaseInvariant_ipBase rfl).2 ⟨hn, decomposed_of_lowBit hn hd hprod⟩⟩
  · have hprod' : (s.d >>> 1).toNat * 2 ^ (s.r + 1).toNat + 1 = s.cx.toNat := by
      rw [halving_keeps_product hd hr, hprod]
    exact ⟨hi, EmptyResponse.consistent he,
      (phaseInvariant_ipDecomp (s := { s with d := s.d >>> 1, r := s.r + 1 }) hphase).2 ⟨hn, hprod'⟩⟩

theorem stepIpBase_keepsInvariant (hphase : s.phase = .ipBase) (hp : PhaseInvariant s)
    (h : stepIpBase s = .next t) : StateInvariant t := by
  obtain ⟨hn, hd⟩ := (phaseInvariant_ipBase hphase).1 hp
  obtain ⟨a, -, ⟨-, hnext⟩ | ⟨-, rfl⟩⟩ := stepIpBase_next h
  · exact nextBase_keepsInvariant hi he hn hd hnext
  · exact ⟨hi, EmptyResponse.consistent he,
      (phaseInvariant_ipPow rfl).2 ⟨hn, hd, rfl, one_umod_lt hn.ne_zero⟩⟩

theorem stepIpPow_keepsInvariant (hphase : s.phase = .ipPow) (hp : PhaseInvariant s)
    (h : stepIpPow s = .next t) : StateInvariant t := by
  obtain ⟨hn, hd, hxm, hxr⟩ := (phaseInvariant_ipPow hphase).1 hp
  obtain ⟨-, rfl⟩ | ⟨-, hm, rfl⟩ := stepIpPow_next h
  · have hx : s.xr < s.cx := hxm ▸ hxr
    exact ⟨hi, EmptyResponse.consistent he, (phaseInvariant_ipCheck rfl).2 ⟨hn, hd, hx⟩⟩
  · exact ⟨hi, EmptyResponse.consistent he,
      (phaseInvariant_ipPow (s := mexpIter s) hphase).2 ⟨hn, hd, hxm, mexpIter_xr_lt hm hxr⟩⟩

theorem stepIpCheck_keepsInvariant (hphase : s.phase = .ipCheck) (hp : PhaseInvariant s)
    (h : stepIpCheck s = .next t) : StateInvariant t := by
  obtain ⟨hn, hd, hx⟩ := (phaseInvariant_ipCheck hphase).1 hp
  obtain ⟨-, hnext⟩ | ⟨-, rfl⟩ := stepIpCheck_next h
  · exact nextBase_keepsInvariant hi he hn hd hnext
  · obtain ⟨hpi, hbi, -⟩ := hi
    have hr : (0 : BitVec 6).toNat + 1 ≤ s.r.toNat := hd.2.1
    exact ⟨⟨hpi, hbi, Nat.zero_le _⟩, EmptyResponse.consistent he,
      (phaseInvariant_ipSquare rfl).2 ⟨hn, hd, hx, hr⟩⟩

theorem stepIpSquare_keepsInvariant (hphase : s.phase = .ipSquare) (hp : PhaseInvariant s)
    (h : stepIpSquare s = .next t) : StateInvariant t := by
  obtain ⟨hn, hd, -, -⟩ := (phaseInvariant_ipSquare hphase).1 hp
  obtain ⟨-, rfl⟩ | ⟨hsq, hcx, hcases⟩ := stepIpSquare_next h
  · exact stateInvariant_complete hi _
  obtain ⟨hpi, hbi, -⟩ := hi
  have hsq1 : (s.sq + 1).toNat = s.sq.toNat + 1 := by bv_omega
  have hsq62 : (s.sq + 1).toNat ≤ 62 := by omega
  obtain ⟨-, hnext⟩ | ⟨-, rfl⟩ := hcases
  · exact nextBase_keepsInvariant (s := { s with x := mulmod s.x s.x s.cx, sq := s.sq + 1 })
      ⟨hpi, hbi, hsq62⟩ he hn hd hnext
  · have hr : (s.sq + 1).toNat + 1 ≤ s.r.toNat := by omega
    exact ⟨⟨hpi, hbi, hsq62⟩, EmptyResponse.consistent he,
      (phaseInvariant_ipSquare (s := { s with x := mulmod s.x s.x s.cx, sq := s.sq + 1 }) hphase).2
        ⟨hn, hd, mulmod_lt hcx _ _, hr⟩⟩

end

theorem controllerStep_keepsInvariant {s t : State} (hs : StateInvariant s) (hb : busy s = true)
    (h : controllerStep s = .next t) : StateInvariant t := by
  obtain ⟨hi, hr, hp⟩ := hs
  have he : EmptyResponse s := hr.empty_of_busy hb
  unfold controllerStep at h
  split at h
  case h_1 hphase => simp [busy, hphase] at hb
  case h_2 => exact stepMmExec_keepsInvariant hi h
  case h_3 hphase => exact stepPmLoop_keepsInvariant hi he hphase hp h
  case h_4 => exact stepIpRange_keepsInvariant hi he h
  case h_5 hphase => exact stepIpTrial_keepsInvariant hi he hphase hp h
  case h_6 hphase => exact stepIpDecomp_keepsInvariant hi he hphase hp h
  case h_7 hphase => exact stepIpBase_keepsInvariant hi he hphase hp h
  case h_8 hphase => exact stepIpPow_keepsInvariant hi he hphase hp h
  case h_9 hphase => exact stepIpCheck_keepsInvariant hi he hphase hp h
  case h_10 hphase => exact stepIpSquare_keepsInvariant hi he hphase hp h

/-- Every step keeps the invariant, whatever the host drives. -/
theorem step_keepsInvariant {s t : State} (hs : StateInvariant s) (h : step s = .next t) :
    StateInvariant t := by
  obtain ⟨-, rfl⟩ | ⟨-, hb, h⟩ | ⟨-, hb, -, h⟩ | ⟨-, -, -, rfl⟩ := step_cases h
  · exact stateInvariant_resetBlock _
  · exact controllerStep_keepsInvariant hs.after_dropSample hb h
  · exact exec_keepsInvariant (s := dropSample s) (busy_eq_false_iff.1 hb) hs.1 h
  · exact hs.after_dropSample

/-- Settles O48, by the inversion of a step: reset, one lemma per controller phase, accept, and the idle block. -/
theorem everyStepKeepsTheInvariant : Obligations.EveryStepKeepsTheInvariant :=
  fun _ _ hs h => step_keepsInvariant hs h

/-- Settles O47: the reset state is a block just reset. -/
theorem invariantAtReset : Obligations.InvariantAtReset := stateInvariant_resetBlock State.reset

/-- Settles O6, by evaluation of the one state it is about. -/
theorem resetStateIsIdleWithoutResponse : Obligations.ResetStateIsIdleWithoutResponse := by
  unfold Obligations.ResetStateIsIdleWithoutResponse
  decide

end Sys2Proof.Machine

/-! PROOFS. What a step can change: the phases it joins, the command latches and `err_sticky`. -/

namespace Sys2Proof.Machine

/-! ### The phases a step joins -/

theorem nextBase_phase {s t : State} (h : nextBase s = .next t) : t.phase = .idle ∨ t.phase = .ipBase := by
  obtain ⟨-, rfl⟩ | ⟨-, -, rfl⟩ := nextBase_next h
  · exact .inl rfl
  · exact .inr rfl

/-- The controller moves `PHASE` along the edges of 10_state.md R121. -/
theorem controllerStep_edge {s t : State} (h : controllerStep s = .next t) :
    (s.phase, t.phase) ∈ phaseEdges := by
  unfold controllerStep at h
  split at h <;> rename_i hphase <;> rw [hphase]
  case h_1 =>
    cases h
    rw [hphase]
    decide
  case h_2 =>
    obtain ⟨-, rfl⟩ := stepMmExec_next h
    simp [phaseEdges]
  case h_3 =>
    obtain ⟨-, rfl⟩ | ⟨-, -, rfl⟩ := stepPmLoop_next h <;> simp [phaseEdges, hphase]
  case h_4 =>
    obtain ⟨-, rfl⟩ | ⟨-, rfl⟩ := stepIpRange_next h <;> simp [phaseEdges]
  case h_5 =>
    obtain ⟨_, -, ⟨-, rfl⟩ | ⟨-, -, rfl⟩ | ⟨-, -, rfl⟩⟩ := stepIpTrial_next h <;> simp [phaseEdges, hphase]
  case h_6 =>
    obtain ⟨-, rfl⟩ | ⟨-, -, rfl⟩ := stepIpDecomp_next h <;> simp [phaseEdges, hphase]
  case h_7 =>
    obtain ⟨_, -, ⟨-, h⟩ | ⟨-, rfl⟩⟩ := stepIpBase_next h
    · obtain ht | ht := nextBase_phase h <;> simp [phaseEdges, ht]
    · simp [phaseEdges]
  case h_8 =>
    obtain ⟨-, rfl⟩ | ⟨-, -, rfl⟩ := stepIpPow_next h <;> simp [phaseEdges, hphase]
  case h_9 =>
    obtain ⟨-, h⟩ | ⟨-, rfl⟩ := stepIpCheck_next h
    · obtain ht | ht := nextBase_phase h <;> simp [phaseEdges, ht]
    · simp [phaseEdges]
  case h_10 =>
    obtain ⟨-, rfl⟩ | ⟨-, -, ⟨-, h⟩ | ⟨-, rfl⟩⟩ := stepIpSquare_next h
    · simp [phaseEdges]
    · obtain ht | ht := nextBase_phase h <;> simp [phaseEdges, ht]
    · simp [phaseEdges, hphase]

/-- No edge from a phase of one command leads to a phase of another. -/
theorem phaseEdges_within_command :
    ∀ e ∈ phaseEdges, e.1 ≠ .idle → e.2 = .idle ∨ phaseCommand e.2 = phaseCommand e.1 := by
  decide

theorem withModulus_phase (m : Word) (k : State → State) (s : State) :
    (withModulus m k s).phase = if m = 0 then .idle else (k s).phase := by
  unfold withModulus
  split <;> rfl

/-- An accept leaves the block idle or in the first phase of its own command. -/
theorem exec_edge {i : Instr} {s t : State} (hidle : s.phase = .idle) (h : exec i s = .next t) :
    (Phase.idle, t.phase) ∈ phaseEdges ∧ (t.phase ≠ .idle → phaseCommand t.phase = some (opcodeOf i)) := by
  rw [exec_idle hidle] at h
  cases h
  cases i with
  | mulMod a b m =>
    rw [withModulus_phase]
    split <;> simp [phaseEdges, phaseCommand, opcodeOf]
  | powMod a e m =>
    rw [withModulus_phase]
    split <;> simp [phaseEdges, phaseCommand, opcodeOf]
  | isProbablePrime n y z => simp [phaseEdges, phaseCommand, opcodeOf]
  | reserved x y z => simp [phaseEdges]

/-- The decoder reads the operation code off the field `op` (30_encoding.md R46). -/
theorem opcodeOf_decode (w : CommandWord) : opcodeOf (decode w) = w.op := by
  unfold decode decodeFields
  split
  · exact Eq.symm ‹_›
  · split
    · exact Eq.symm ‹_›
    · split
      · exact Eq.symm ‹_›
      · have h3 : w.op = 3 := by bv_omega
        exact h3.symm

theorem opcodeOf_decode_portsWord (p : Ports) : opcodeOf (decode (portsWord p)) = p.cmdOp := by
  rw [opcodeOf_decode]
  exact Laws.commandWord_op _ _ _ _

theorem acceptsNow_iff {s : State} :
    acceptsNow s = true ↔ (sampleOf s).rst = false ∧ busy s = false ∧ (sampleOf s).cmdValid = true := by
  simp [acceptsNow, cmdReady, busy, and_assoc, and_left_comm]

/-- Settles O51: the controller's edges and the accept's, from the inversion of a step. -/
theorem phaseMovesAlongTheEdges : Obligations.PhaseMovesAlongTheEdges := by
  unfold Obligations.PhaseMovesAlongTheEdges
  intro s t h
  obtain ⟨hr, rfl⟩ | ⟨hr, hb, h⟩ | ⟨hr, hb, hv, h⟩ | ⟨hr, hb, -, rfl⟩ := step_cases h
  · exact ⟨fun _ => rfl, fun hr' => by simp [hr] at hr'⟩
  · have hedge : (s.phase, t.phase) ∈ phaseEdges := controllerStep_edge (s := dropSample s) h
    refine ⟨fun hr' => by simp [hr] at hr', fun _ => ⟨hedge, phaseEdges_within_command _ hedge, ?_⟩⟩
    intro hidle
    simp [busy, hidle] at hb
  · have hidle : s.phase = .idle := busy_eq_false_iff.1 hb
    obtain ⟨hedge, hcmd⟩ := exec_edge (s := dropSample s) hidle h
    rw [opcodeOf_decode_portsWord] at hcmd
    refine ⟨fun hr' => by simp [hr] at hr', fun _ => ⟨hidle ▸ hedge, fun hne => absurd hidle hne, ?_⟩⟩
    exact fun _ hne => ⟨acceptsNow_iff.2 ⟨hr, hb, hv⟩, hcmd hne⟩
  · have hidle : s.phase = .idle := busy_eq_false_iff.1 hb
    simp [hr, hidle, phaseEdges]

/-! ### What the controller leaves alone -/

/-- `t` holds the same command latches and the same `err_sticky` as `s`. -/
structure KeepsCommand (s t : State) : Prop where
  /-- `OP` -/
  op : t.op = s.op
  /-- `CX` -/
  cx : t.cx = s.cx
  /-- `CY` -/
  cy : t.cy = s.cy
  /-- `CZ` -/
  cz : t.cz = s.cz
  /-- `err_sticky` -/
  errSticky : t.errSticky = s.errSticky

theorem nextBase_keepsCommand {s t : State} (h : nextBase s = .next t) : KeepsCommand s t := by
  obtain ⟨-, rfl⟩ | ⟨-, -, rfl⟩ := nextBase_next h <;> exact ⟨rfl, rfl, rfl, rfl, rfl⟩

theorem controllerStep_keepsCommand {s t : State} (h : controllerStep s = .next t) : KeepsCommand s t := by
  unfold controllerStep at h
  split at h
  case h_1 =>
    cases h
    exact ⟨rfl, rfl, rfl, rfl, rfl⟩
  case h_2 =>
    obtain ⟨-, rfl⟩ := stepMmExec_next h
    exact ⟨rfl, rfl, rfl, rfl, rfl⟩
  case h_3 => obtain ⟨-, rfl⟩ | ⟨-, -, rfl⟩ := stepPmLoop_next h <;> exact ⟨rfl, rfl, rfl, rfl, rfl⟩
  case h_4 => obtain ⟨-, rfl⟩ | ⟨-, rfl⟩ := stepIpRange_next h <;> exact ⟨rfl, rfl, rfl, rfl, rfl⟩
  case h_5 =>
    obtain ⟨_, -, ⟨-, rfl⟩ | ⟨-, -, rfl⟩ | ⟨-, -, rfl⟩⟩ := stepIpTrial_next h <;> exact ⟨rfl, rfl, rfl, rfl, rfl⟩
  case h_6 => obtain ⟨-, rfl⟩ | ⟨-, -, rfl⟩ := stepIpDecomp_next h <;> exact ⟨rfl, rfl, rfl, rfl, rfl⟩
  case h_7 =>
    obtain ⟨_, -, ⟨-, h⟩ | ⟨-, rfl⟩⟩ := stepIpBase_next h
    · exact nextBase_keepsCommand h
    · exact ⟨rfl, rfl, rfl, rfl, rfl⟩
  case h_8 => obtain ⟨-, rfl⟩ | ⟨-, -, rfl⟩ := stepIpPow_next h <;> exact ⟨rfl, rfl, rfl, rfl, rfl⟩
  case h_9 =>
    obtain ⟨-, h⟩ | ⟨-, rfl⟩ := stepIpCheck_next h
    · exact nextBase_keepsCommand h
    · exact ⟨rfl, rfl, rfl, rfl, rfl⟩
  case h_10 =>
    obtain ⟨-, rfl⟩ | ⟨-, -, ⟨-, h⟩ | ⟨-, rfl⟩⟩ := stepIpSquare_next h
    · exact ⟨rfl, rfl, rfl, rfl, rfl⟩
    · obtain ⟨hop, hcx, hcy, hcz, hsticky⟩ := nextBase_keepsCommand h
      exact ⟨hop, hcx, hcy, hcz, hsticky⟩
    · exact ⟨rfl, rfl, rfl, rfl, rfl⟩

/-- Settles O53: without reset and accept a step is the controller's or leaves an idle block alone. -/
theorem latchesAreWrittenOnlyByAccept : Obligations.LatchesAreWrittenOnlyByAccept := by
  unfold Obligations.LatchesAreWrittenOnlyByAccept
  intro s t h hrst hacc
  obtain ⟨hr, -⟩ | ⟨-, -, h⟩ | ⟨hr, hb, hv, -⟩ | ⟨-, -, -, rfl⟩ := step_cases h
  · simp [hr] at hrst
  · obtain ⟨hop, hcx, hcy, hcz, -⟩ := controllerStep_keepsCommand h
    exact ⟨hop, hcx, hcy, hcz⟩
  · rw [acceptsNow_iff.2 ⟨hr, hb, hv⟩] at hacc
    cases hacc
  · exact ⟨rfl, rfl, rfl, rfl⟩

/-! ### `err_sticky` -/

theorem withModulus_errSticky {m : Word} {k : State → State} {s : State}
    (hk : (k s).errSticky = s.errSticky) :
    (withModulus m k s).errSticky = (s.errSticky || m == 0) := by
  by_cases hm : m = 0
  · subst hm
    rw [withModulus_zero, raiseFault_errSticky, beq_self_eq_true, Bool.or_true]
  · rw [withModulus_ne hm, hk, beq_false_of_ne hm, Bool.or_false]

/-- An accept sets `err_sticky` exactly for a command outside its domain. -/
theorem exec_errSticky {i : Instr} {s t : State} (hidle : s.phase = .idle) (h : exec i s = .next t) :
    t.errSticky = (s.errSticky || !i.inDomain) := by
  rw [exec_idle hidle] at h
  cases h
  cases i with
  | mulMod a b m =>
    rw [withModulus_errSticky rfl]
    simp [Instr.inDomain, bne]
  | powMod a e m =>
    rw [withModulus_errSticky rfl]
    simp [Instr.inDomain, bne]
  | isProbablePrime n y z => simp [Instr.inDomain]
  | reserved x y z => simp [Instr.inDomain]

/-- Settles O52: only reset clears `err_sticky`, and only the accept of a faulting command sets it. -/
theorem errStickyRecordsFaults : Obligations.ErrStickyRecordsFaults := by
  unfold Obligations.ErrStickyRecordsFaults
  refine ⟨rfl, fun s t h => ?_⟩
  obtain ⟨hr, rfl⟩ | ⟨hr, hb, h⟩ | ⟨hr, hb, hv, h⟩ | ⟨hr, hb, hv, rfl⟩ := step_cases h
  · exact ⟨fun _ => rfl, fun hr' => by simp [hr] at hr'⟩
  · have hkeep : t.errSticky = s.errSticky := (controllerStep_keepsCommand h).errSticky
    simp [hr, hkeep, acceptsNow_iff, hb]
  · have hexec := exec_errSticky (s := dropSample s) (busy_eq_false_iff.1 hb) h
    simp [hr, hexec, acceptsNow_iff, hb, hv, Instr.InDomain]
  · simp [hr, acceptsNow_iff, hv]

end Sys2Proof.Machine

/-! PROOFS. The response of a command is a function of its command word: a state the invariant allows has a next state,
and the registers a phase still reads determine those the next phase reads. -/

namespace Sys2Proof.Machine

/-! ### Progress: a state the invariant allows has a next state -/

theorem exists_romRead_eq_some {t : Table} {i : Nat} (h : i < (tableEntries t).length) :
    ∃ p, romRead t i = some p :=
  Option.isSome_iff_exists.1 ((romRead_isSome t i).2 h)

theorem mexpStep_progress {done : State → State} {s : State} (hxr : s.xr < s.xm) :
    ∃ t, mexpStep done s = .next t := by
  have hm : s.xm ≠ 0 := by bv_omega
  unfold mexpStep
  rw [if_neg hm]
  split <;> exact ⟨_, rfl⟩

theorem nextBase_progress {s : State} (hbi : s.bi.toNat ≤ 6) : ∃ t, nextBase s = .next t := by
  have h7 : s.bi ≠ 7 := by bv_omega
  unfold nextBase
  rw [if_neg h7]
  split <;> exact ⟨_, rfl⟩

/-- `R` is below 63 wherever a halving is due (10_state.md R19). -/
theorem halvings_lt_63 {s : State} (hn : PassedTrialDivision s.cx) (hd : lowBit s.d = false)
    (hprod : s.d.toNat * 2 ^ s.r.toNat + 1 = s.cx.toNat) : s.r ≠ 63 := by
  intro hr
  have h41 : 41 ≤ s.cx.toNat := hn.1
  have heven : s.d.toNat % 2 = 0 := lowBit_eq_false_iff.1 hd
  have hr63 : s.r.toNat = 63 := by rw [hr]; rfl
  rw [hr63] at hprod
  omega

theorem stepIpTrial_progress {s : State} (hpi : s.pi.toNat ≤ 11) : ∃ t, stepIpTrial s = .next t := by
  obtain ⟨p, hp⟩ := exists_romRead_eq_some (t := .smallPrime) (Nat.lt_succ_of_le hpi)
  unfold stepIpTrial
  rw [hp]
  dsimp only
  split_ifs <;> exact ⟨_, rfl⟩

theorem stepIpDecomp_progress {s : State} (hr : lowBit s.d = false → s.r ≠ 63) :
    ∃ t, stepIpDecomp s = .next t := by
  unfold stepIpDecomp
  split
  · exact ⟨_, rfl⟩
  · rw [if_neg (hr (by simpa using ‹¬ lowBit s.d = true›))]
    exact ⟨_, rfl⟩

theorem stepIpBase_progress {s : State} (hbi : s.bi.toNat ≤ 6) : ∃ t, stepIpBase s = .next t := by
  obtain ⟨a, ha⟩ := exists_romRead_eq_some (t := .base) (Nat.lt_succ_of_le hbi)
  unfold stepIpBase
  rw [ha]
  dsimp only
  split
  · exact nextBase_progress hbi
  · exact ⟨_, rfl⟩

theorem stepIpCheck_progress {s : State} (hbi : s.bi.toNat ≤ 6) : ∃ t, stepIpCheck s = .next t := by
  unfold stepIpCheck
  split
  · exact nextBase_progress hbi
  · exact ⟨_, rfl⟩

theorem stepIpSquare_progress {s : State} (hbi : s.bi.toNat ≤ 6) (hcx : s.cx ≠ 0) :
    ∃ t, stepIpSquare s = .next t := by
  unfold stepIpSquare
  rw [if_neg hcx]
  dsimp only
  split_ifs
  · exact ⟨_, rfl⟩
  · exact nextBase_progress hbi
  · exact ⟨_, rfl⟩

/-- In a state the invariant allows, the controller's step has a next state. -/
theorem controllerStep_progress {s : State} (hs : StateInvariant s) : ∃ t, controllerStep s = .next t := by
  obtain ⟨⟨hpi, hbi, -⟩, -, hp⟩ := hs
  unfold controllerStep
  split
  case h_1 => exact ⟨_, rfl⟩
  case h_2 hphase =>
    have hcz : s.cz ≠ 0 := (phaseInvariant_mmExec hphase).1 hp
    exact ⟨_, if_neg hcz⟩
  case h_3 hphase =>
    obtain ⟨-, hxr⟩ := (phaseInvariant_pmLoop hphase).1 hp
    exact mexpStep_progress hxr
  case h_4 =>
    unfold stepIpRange
    split <;> exact ⟨_, rfl⟩
  case h_5 => exact stepIpTrial_progress hpi
  case h_6 hphase =>
    obtain ⟨hn, hprod⟩ := (phaseInvariant_ipDecomp hphase).1 hp
    exact stepIpDecomp_progress fun hd => halvings_lt_63 hn hd hprod
  case h_7 => exact stepIpBase_progress hbi
  case h_8 hphase =>
    obtain ⟨-, -, -, hxr⟩ := (phaseInvariant_ipPow hphase).1 hp
    exact mexpStep_progress hxr
  case h_9 => exact stepIpCheck_progress hbi
  case h_10 hphase =>
    obtain ⟨hn, -⟩ := (phaseInvariant_ipSquare hphase).1 hp
    exact stepIpSquare_progress hbi hn.ne_zero

/-! ### The registers a phase still reads -/

/-- `s` with the working registers 0 and `err_sticky` clear. -/
def clearWorking (s : State) : State :=
  { s with xr := 0, xb := 0, xe := 0, xm := 0, d := 0, r := 0, x := 0, pi := 0, bi := 0, sq := 0, errSticky := false }

/-- `s` with every working register that the rest of the command writes before it reads at 0 (10_state.md R24), and
`err_sticky`, which no step reads, clear. -/
def liveView (s : State) : State :=
  match s.phase with
  | .idle | .mmExec | .ipRange => clearWorking s
  | .pmLoop => { clearWorking s with xr := s.xr, xb := s.xb, xe := s.xe, xm := s.xm }
  | .ipTrial => { clearWorking s with pi := s.pi }
  | .ipDecomp => { clearWorking s with d := s.d, r := s.r }
  | .ipBase => { clearWorking s with d := s.d, r := s.r, bi := s.bi }
  | .ipPow =>
    { clearWorking s with xr := s.xr, xb := s.xb, xe := s.xe, xm := s.xm, d := s.d, r := s.r, bi := s.bi }
  | .ipCheck => { clearWorking s with d := s.d, r := s.r, x := s.x, bi := s.bi }
  | .ipSquare => { clearWorking s with d := s.d, r := s.r, x := s.x, bi := s.bi, sq := s.sq }

/-- The outcome of a step with its next state reduced to the live registers. -/
def viewOutcome : Host.Outcome State Fault Refusal → Host.Outcome State Fault Refusal
  | .next s => .next (liveView s)
  | .fault f => .fault f
  | .refused r => .refused r

@[simp] theorem liveView_phase (s : State) : (liveView s).phase = s.phase := by
  unfold liveView
  split <;> rfl

@[simp] theorem liveView_rspValid (s : State) : (liveView s).rspValid = s.rspValid := by
  unfold liveView
  split <;> rfl

@[simp] theorem liveView_rspErr (s : State) : (liveView s).rspErr = s.rspErr := by
  unfold liveView
  split <;> rfl

@[simp] theorem liveView_rspData (s : State) : (liveView s).rspData = s.rspData := by
  unfold liveView
  split <;> rfl

theorem viewOutcome_ite (c : Prop) [Decidable c] (a b : Host.Outcome State Fault Refusal) :
    viewOutcome (if c then a else b) = if c then viewOutcome a else viewOutcome b :=
  apply_ite viewOutcome c a b

/-- The controller decides by live registers only, and writes each register before it becomes live: with both sides'
branches under `viewOutcome`, they agree branch by branch. -/
theorem controllerStep_liveView (s : State) :
    viewOutcome (controllerStep (liveView s)) = viewOutcome (controllerStep s) := by
  obtain ⟨phase, op, cx, cy, cz, xr, xb, xe, xm, d, r, x, pi, bi, sq, rspValid, rspErr, rspData, errSticky, inputs⟩ := s
  cases phase with
  | idle => rfl
  | mmExec =>
    simp only [liveView, clearWorking]
    simp only [controllerStep, stepMmExec, viewOutcome_ite]
    rfl
  | pmLoop =>
    simp only [liveView, clearWorking]
    simp only [controllerStep, stepPmLoop, mexpStep, viewOutcome_ite]
    rfl
  | ipRange =>
    simp only [liveView, clearWorking]
    simp only [controllerStep, stepIpRange, viewOutcome_ite]
    rfl
  | ipTrial =>
    simp only [liveView, clearWorking]
    simp only [controllerStep, stepIpTrial]
    cases romRead .smallPrime pi.toNat with
    | none => rfl
    | some p =>
      simp only [viewOutcome_ite]
      rfl
  | ipDecomp =>
    simp only [liveView, clearWorking]
    simp only [controllerStep, stepIpDecomp, viewOutcome_ite]
    rfl
  | ipBase =>
    simp only [liveView, clearWorking]
    simp only [controllerStep, stepIpBase, nextBase]
    cases romRead .base bi.toNat with
    | none => rfl
    | some a =>
      simp only [viewOutcome_ite]
      rfl
  | ipPow =>
    simp only [liveView, clearWorking]
    simp only [controllerStep, stepIpPow, mexpStep, viewOutcome_ite]
    rfl
  | ipCheck =>
    simp only [liveView, clearWorking]
    simp only [controllerStep, stepIpCheck, nextBase, viewOutcome_ite]
    rfl
  | ipSquare =>
    simp only [liveView, clearWorking]
    simp only [controllerStep, stepIpSquare, nextBase, viewOutcome_ite]
    rfl

/-- Two states with the same live registers step to states with the same live registers. -/
theorem liveView_of_controllerStep {s₁ s₂ t₁ t₂ : State} (hview : liveView s₁ = liveView s₂)
    (h₁ : controllerStep s₁ = .next t₁) (h₂ : controllerStep s₂ = .next t₂) : liveView t₁ = liveView t₂ := by
  have hsame : viewOutcome (controllerStep s₁) = viewOutcome (controllerStep s₂) := by
    rw [← controllerStep_liveView s₁, hview, controllerStep_liveView]
  rw [h₁, h₂] at hsame
  exact Host.Outcome.next.inj hsame

/-! ### Runs of a block whose ports are released -/

/-- With the ports released a step is the controller's step, which in `IDLE` does nothing. -/
theorem step_eq_controllerStep {s : State} (hin : s.inputs = []) : step s = controllerStep s := by
  have hdrop : dropSample s = s := by
    unfold dropSample
    rw [hin, List.tail_nil, ← hin]
  have hsample : sampleOf s = releasedPorts := by simp [sampleOf, hin]
  unfold step
  rw [hsample, hdrop]
  cases hb : busy s with
  | true => rfl
  | false =>
    unfold controllerStep
    rw [busy_eq_false_iff.1 hb]
    rfl

/-- Two blocks with the same live registers keep them the same for any number of steps. -/
theorem run_liveView {k : Nat} {s₁ s₂ : State} (hs₁ : StateInvariant s₁) (hs₂ : StateInvariant s₂)
    (hin₁ : s₁.inputs = []) (hin₂ : s₂.inputs = []) (hview : liveView s₁ = liveView s₂) :
    ∃ u₁ u₂, run k s₁ = .next u₁ ∧ run k s₂ = .next u₂ ∧ liveView u₁ = liveView u₂ := by
  induction k generalizing s₁ s₂ with
  | zero => exact ⟨s₁, s₂, rfl, rfl, hview⟩
  | succ k ih =>
    obtain ⟨t₁, hc₁⟩ := controllerStep_progress hs₁
    obtain ⟨t₂, hc₂⟩ := controllerStep_progress hs₂
    have h₁ : step s₁ = .next t₁ := (step_eq_controllerStep hin₁).trans hc₁
    have h₂ : step s₂ = .next t₂ := (step_eq_controllerStep hin₂).trans hc₂
    rw [run_succ_of_step h₁, run_succ_of_step h₂]
    exact ih (step_keepsInvariant hs₁ h₁) (step_keepsInvariant hs₂ h₂) ((controllerStep_inputs hc₁).trans hin₁)
      ((controllerStep_inputs hc₂).trans hin₂) (liveView_of_controllerStep hview hc₁ hc₂)

/-! ### The response of a command -/

/-- Accept writes every register that is live after it from the command word alone. -/
theorem exec_liveView {i : Instr} {s₁ s₂ t₁ t₂ : State} (hidle₁ : s₁.phase = .idle) (hidle₂ : s₂.phase = .idle)
    (hin : s₁.inputs = s₂.inputs) (h₁ : exec i s₁ = .next t₁) (h₂ : exec i s₂ = .next t₂) :
    liveView t₁ = liveView t₂ := by
  rw [exec_idle hidle₁] at h₁
  rw [exec_idle hidle₂] at h₂
  cases h₁
  cases h₂
  cases s₁
  cases s₂
  dsimp only at hin
  subst hin
  cases i with
  | mulMod a b m =>
    by_cases hm : m = 0
    · subst hm
      rfl
    · simp only [withModulus_ne hm]
      rfl
  | powMod a e m =>
    by_cases hm : m = 0
    · subst hm
      rfl
    · simp only [withModulus_ne hm]
      rfl
  | isProbablePrime n y z => rfl
  | reserved x y z => rfl

theorem exec_progress {s : State} (hidle : s.phase = .idle) (i : Instr) : ∃ t, exec i s = .next t :=
  ⟨_, exec_idle hidle⟩

/-- Settles O55: after the accept both blocks have the same live registers, and every step keeps that. -/
theorem responseDependsOnTheCommandAlone : Obligations.ResponseDependsOnTheCommandAlone := by
  unfold Obligations.ResponseDependsOnTheCommandAlone
  intro i s₁ s₂ hs₁ hs₂ hidle₁ hidle₂ hin₁ hin₂ k
  obtain ⟨t₁, h₁⟩ := exec_progress hidle₁ i
  obtain ⟨t₂, h₂⟩ := exec_progress hidle₂ i
  obtain ⟨u₁, u₂, hr₁, hr₂, hview⟩ := run_liveView (k := k)
    (exec_keepsInvariant hidle₁ hs₁.1 h₁) (exec_keepsInvariant hidle₂ hs₂.1 h₂)
    ((exec_idle_inputs hidle₁ h₁).trans hin₁) ((exec_idle_inputs hidle₂ h₂).trans hin₂)
    (exec_liveView hidle₁ hidle₂ (hin₁.trans hin₂.symm) h₁ h₂)
  refine ⟨t₁, t₂, u₁, u₂, h₁, h₂, hr₁, hr₂, ?_, ?_, ?_, ?_⟩
  · simpa [busy] using congrArg busy hview
  · simpa using congrArg State.rspValid hview
  · simpa using congrArg State.rspErr hview
  · simpa using congrArg State.rspData hview

end Sys2Proof.Machine

/-! PROOFS. The constant tables: what a read of an index answers, and the primes below 40. -/

namespace Sys2Proof.Machine

theorem romRead_eq_none_iff {t : Table} {i : Nat} : romRead t i = none ↔ (tableEntries t).length ≤ i := by
  rw [← Option.not_isSome_iff_eq_none, romRead_isSome, Nat.not_lt]

/-- Reading every index of a table in order gives its entries. -/
theorem map_romRead_range (t : Table) :
    (List.range (tableEntries t).length).map (romRead t) = (tableEntries t).map some := by
  refine List.ext_getElem (by simp) fun i _ hi => ?_
  simp only [List.length_map] at hi
  simp [romRead, hi]

/-- The numbers read from a table, for a list `values` that its entries are known to hold. -/
theorem map_toNat_romRead_range {t : Table} {values : List Nat}
    (hvalues : (tableEntries t).map BitVec.toNat = values) :
    (List.range values.length).map (fun i => (romRead t i).map BitVec.toNat) = values.map some := by
  subst hvalues
  calc
    _ = ((List.range (tableEntries t).length).map (romRead t)).map (Option.map BitVec.toNat) := by simp
    _ = _ := by simp [map_romRead_range]

theorem prime_of_mem_smallPrimes : ∀ q ∈ smallPrimes, q.toNat.Prime := by
  rw [forall_mem_smallPrimes]
  simp only [BitVec.reduceToNat]
  norm_num

/-- A prime below 41 has a divisor in `SMALL_PRIME`, which can only be the prime itself. -/
theorem mem_smallPrimes_of_prime {p : Nat} (hlt : p < 41) (hp : p.Prime) : BitVec.ofNat 64 p ∈ smallPrimes := by
  obtain ⟨q, hq, hdvd⟩ := exists_smallPrime_dvd p hlt hp.two_le
  have heq : q.toNat = p :=
    (Nat.prime_dvd_prime_iff_eq (prime_of_mem_smallPrimes q hq) hp).1 (Nat.dvd_of_mod_eq_zero hdvd)
  rwa [← heq, BitVec.ofNat_toNat, BitVec.setWidth_eq]

theorem prime_iff_mem_smallPrimes {p : Nat} (hlt : p < 41) : p.Prime ↔ BitVec.ofNat 64 p ∈ smallPrimes := by
  refine ⟨mem_smallPrimes_of_prime hlt, fun hmem => ?_⟩
  have hprime := prime_of_mem_smallPrimes _ hmem
  rwa [BitVec.toNat_ofNat, Nat.mod_eq_of_lt (by omega)] at hprime

/-- Settles O46: the reads follow from the lists of entries, and the primes from divisibility by an entry. -/
theorem constantTables : Obligations.ConstantTables := by
  unfold Obligations.ConstantTables
  refine ⟨map_toNat_romRead_range (t := .smallPrime) rfl, map_toNat_romRead_range (t := .base) rfl, ?_, ?_, ?_⟩
  · exact fun _ => (romRead_eq_none_iff (t := .smallPrime)).2
  · exact fun _ => (romRead_eq_none_iff (t := .base)).2
  · exact fun p hp => prime_iff_mem_smallPrimes (by omega)

end Sys2Proof.Machine

/-! PROOFS. The command word: its four fields, and what decoding, encoding and the opcode table say about them. -/

namespace Sys2Proof

/-! ### The fields of a word put together from four fields -/

theorem commandWord_x (o : BitVec 2) (x y z : Word) : (commandWord o x y z).x = x := by
  ext i hi
  simp only [commandWord, CommandWord.x, BitVec.getElem_extractLsb', BitVec.getLsbD_append]
  rw [if_neg (by omega), if_neg (by omega), if_pos (by omega), show 128 + i - 64 - 64 = i by omega,
    BitVec.getLsbD_eq_getElem hi]

theorem commandWord_y (o : BitVec 2) (x y z : Word) : (commandWord o x y z).y = y := by
  ext i hi
  simp only [commandWord, CommandWord.y, BitVec.getElem_extractLsb', BitVec.getLsbD_append]
  rw [if_neg (by omega), if_pos (by omega), show 64 + i - 64 = i by omega, BitVec.getLsbD_eq_getElem hi]

theorem commandWord_z (o : BitVec 2) (x y z : Word) : (commandWord o x y z).z = z := by
  ext i hi
  simp only [commandWord, CommandWord.z, BitVec.getElem_extractLsb', BitVec.getLsbD_append]
  rw [if_pos (by omega), show 0 + i = i by omega, BitVec.getLsbD_eq_getElem hi]

theorem decode_commandWord (o : BitVec 2) (x y z : Word) :
    decode (commandWord o x y z) = decodeFields o x y z := by
  rw [decode, Laws.commandWord_op, commandWord_x, commandWord_y, commandWord_z]

/-! ### Decoding and encoding -/

/-- Settles O1: the word of each command has the command's own fields. -/
theorem decodeOfEncode : Obligations.DecodeOfEncode := by
  unfold Obligations.DecodeOfEncode
  intro i
  cases i <;> exact decode_commandWord _ _ _ _

/-- The encoder puts the four fields the decoder read together again. -/
theorem encode_decodeFields (o : BitVec 2) (x y z : Word) :
    encode (decodeFields o x y z) = commandWord o x y z := by
  unfold decodeFields
  split_ifs with h0 h1 h2
  · rw [h0]; rfl
  · rw [h1]; rfl
  · rw [h2]; rfl
  · have h3 : o = 3 := by bv_omega
    rw [h3]; rfl

theorem encode_decode (w : CommandWord) : encode (decode w) = w :=
  (encode_decodeFields _ _ _ _).trans (Machine.commandWord_fields w)

/-- Settles O2: decoding is the inverse of encoding on both sides. -/
theorem encodeOfDecode : Obligations.EncodeOfDecode := by
  unfold Obligations.EncodeOfDecode
  refine fun w => ⟨encode_decode w, ?_⟩
  rintro i rfl
  exact (decodeOfEncode i).symm

/-! ### The opcode table -/

theorem commandWord_and (o o' : BitVec 2) (x x' y y' z z' : Word) :
    commandWord o x y z &&& commandWord o' x' y' z' = commandWord (o &&& o') (x &&& x') (y &&& y') (z &&& z') := by
  simp only [commandWord]
  rw [BitVec.and_append, BitVec.and_append, BitVec.and_append]

/-- Every row's mask covers the field `op` and no other bit, and its pattern has bits of `op` only. -/
theorem opcodeTable_mask_pattern : ∀ row ∈ opcodeTable,
    row.mask = commandWord 3 0 0 0 ∧ row.pattern = commandWord row.pattern.op 0 0 0 := by
  decide

/-- The rows tell their commands apart. -/
theorem opcodeTable_pattern_injective :
    ∀ row ∈ opcodeTable, ∀ row' ∈ opcodeTable, row.pattern.op = row'.pattern.op → row = row' := by
  decide

/-- A word is of a row exactly when it has the row's operation code (30_encoding.md R46). -/
theorem matches_row_iff {row : OpcodeRow} (hrow : row ∈ opcodeTable) (w : CommandWord) :
    w &&& row.mask = row.pattern ↔ w.op = row.pattern.op := by
  obtain ⟨hmask, hpattern⟩ := opcodeTable_mask_pattern row hrow
  have hand : w &&& row.mask = commandWord w.op 0 0 0 := by
    rw [hmask]
    conv_lhs => rw [← Machine.commandWord_fields w]
    rw [commandWord_and, show (3 : BitVec 2) = BitVec.allOnes 2 from rfl, BitVec.and_allOnes]
    simp only [BitVec.ofNat_eq_ofNat, BitVec.and_zero]
  rw [hand]
  refine ⟨fun h => ?_, fun h => ?_⟩
  · rw [← h, Laws.commandWord_op]
  · rw [h, ← hpattern]

/-- Every command has a row, with its mnemonic and its operation code. -/
theorem exists_row_of_instr (i : Instr) :
    ∃ row ∈ opcodeTable, mnemonicOf i = row.mnemonic ∧ opcodeOf i = row.pattern.op := by
  cases i with
  | mulMod a b m => exact ⟨_, .head _, rfl, rfl⟩
  | powMod a e m => exact ⟨_, .tail _ (.head _), rfl, rfl⟩
  | isProbablePrime n y z => exact ⟨_, .tail _ (.tail _ (.head _)), rfl, rfl⟩
  | reserved x y z => exact ⟨_, .tail _ (.tail _ (.tail _ (.head _))), rfl, rfl⟩

/-- Settles O3: a word matches the rows of its operation code, and only the row of its command has that code. -/
theorem everyWordMatchesExactlyOneRow : Obligations.EveryWordMatchesExactlyOneRow := by
  unfold Obligations.EveryWordMatchesExactlyOneRow
  intro w
  obtain ⟨row, hrow, hname, hop⟩ := exists_row_of_instr (decode w)
  refine ⟨row, hrow, hname, fun row' hrow' => ?_⟩
  rw [matches_row_iff hrow', ← Machine.opcodeOf_decode, hop]
  exact ⟨fun h => (opcodeTable_pattern_injective row hrow row' hrow' h).symm, fun h => by rw [h]⟩

/-- Settles O4, by evaluation of the decoder on the six words. -/
theorem wordsOfTheSpecDecode : Obligations.WordsOfTheSpecDecode := by
  unfold Obligations.WordsOfTheSpecDecode
  decide

end Sys2Proof

/-! PROOFS. Accept: what a step does with an offered command, and the whole next state of each command's accept. -/

namespace Sys2Proof.Machine

/-- An idle block that samples an offer runs the command the sampled word decodes to (30_encoding.md R49, R54). -/
theorem step_accepts {s : State} (hidle : s.phase = .idle) (hrst : (sampleOf s).rst = false)
    (hvalid : (sampleOf s).cmdValid = true) : step s = exec (decode (portsWord (sampleOf s))) (dropSample s) := by
  simp [step, hrst, hvalid, busy_eq_false_iff.2 hidle]

/-- A placed command word stands on the ports of the next step, and the block is idle. -/
theorem withFetchWord_eq {nbits w : Nat} {cw : CommandWord} (h : tableCommandWord nbits w = some cw) (s : State) :
    s.withFetchWord nbits w = { s with phase := .idle, inputs := offerPorts cw :: s.inputs.tail } := by
  simp only [State.withFetchWord, h]

/-- Settles O5: both clauses are the accept of a sampled offer, the second one of the word placed there. -/
theorem stepRunsTheOfferedCommand : Obligations.StepRunsTheOfferedCommand := by
  unfold Obligations.StepRunsTheOfferedCommand
  refine ⟨?_, ?_⟩
  · rintro s i hidle hrst hvalid rfl -
    exact step_accepts hidle hrst hvalid
  · intro s nbits w i h
    obtain ⟨cw, hcw, rfl⟩ := Option.map_eq_some_iff.1 h
    rw [withFetchWord_eq hcw, step_accepts rfl rfl rfl]
    exact congrArg (fun v => exec (decode v) _) (portsWord_offerPorts cw)

theorem exec_busy {i : Instr} {s : State} (h : busy s = true) : exec i s = .next s := by
  have hphase : s.phase ≠ .idle := by simpa [busy] using h
  cases i <;> exact accept_busy hphase

/-- Settles O10: accept is not enabled in a busy block. -/
theorem commandOfferedWhileBusyChangesNothing : Obligations.CommandOfferedWhileBusyChangesNothing :=
  fun _ _ h => exec_busy h

/-- Settles O11: with a modulus that is not 0 accept goes to `MM_EXEC`. -/
theorem mulModIsAccepted : Obligations.MulModIsAccepted := by
  unfold Obligations.MulModIsAccepted
  intro a b m s hidle hm
  rw [exec_idle hidle]
  exact congrArg Host.Outcome.next (withModulus_ne hm _ _)

/-- The start value of `XR` (90_conflicts.md C2). -/
theorem one_umod {m : Word} (hm : m ≠ 0) : 1 % m = if m = 1 then 0 else 1 := by
  split_ifs with h1
  · rw [h1]; rfl
  · have hlt : 1 < m.toNat := by bv_omega
    apply BitVec.eq_of_toNat_eq
    rw [BitVec.toNat_umod]
    exact Nat.mod_eq_of_lt hlt

/-- Settles O12: with a modulus that is not 0 accept loads the exponentiation and goes to `PM_LOOP`. -/
theorem powModIsAccepted : Obligations.PowModIsAccepted := by
  unfold Obligations.PowModIsAccepted
  intro a e m s hidle hm
  rw [exec_idle hidle, ← one_umod hm]
  exact congrArg Host.Outcome.next (withModulus_ne hm _ _)

/-- Settles O13: accept of `is_probable_prime` has one case, whatever its fields hold. -/
theorem isProbablePrimeIsAccepted : Obligations.IsProbablePrimeIsAccepted := by
  unfold Obligations.IsProbablePrimeIsAccepted
  intro n y z s hidle
  exact exec_idle hidle

end Sys2Proof.Machine

/-! PROOFS. The ignored fields of `is_probable_prime`: outside `MM_EXEC` no step reads `CY` or `CZ`, so a block steps with
any other values of them as it would with its own. -/

namespace Sys2Proof.Machine

/-- `s` with other values in the latches `CY` and `CZ`. -/
def withIgnored (y z : Word) (s : State) : State := { s with cy := y, cz := z }

/-- The outcome of a step with its next state changed by `f`. -/
def mapNext (f : State → State) : Host.Outcome State Fault Refusal → Host.Outcome State Fault Refusal
  | .next s => .next (f s)
  | .fault e => .fault e
  | .refused e => .refused e

theorem mapNext_ite (f : State → State) (c : Prop) [Decidable c] (a b : Host.Outcome State Fault Refusal) :
    mapNext f (if c then a else b) = if c then mapNext f a else mapNext f b :=
  apply_ite (mapNext f) c a b

theorem outputs_withIgnored (y z : Word) (s : State) : outputs (withIgnored y z s) = outputs s := rfl

theorem mexpStep_withIgnored {done : State → State} (y z : Word) (s : State)
    (hdone : done (withIgnored y z s) = withIgnored y z (done s)) :
    mexpStep done (withIgnored y z s) = mapNext (withIgnored y z) (mexpStep done s) := by
  simp only [mexpStep, mapNext_ite, hdone]
  rfl

theorem nextBase_withIgnored (y z : Word) (s : State) :
    nextBase (withIgnored y z s) = mapNext (withIgnored y z) (nextBase s) := by
  simp only [nextBase, mapNext_ite]
  rfl

theorem stepIpTrial_withIgnored (y z : Word) (s : State) :
    stepIpTrial (withIgnored y z s) = mapNext (withIgnored y z) (stepIpTrial s) := by
  simp only [stepIpTrial, show (withIgnored y z s).pi = s.pi from rfl]
  cases romRead .smallPrime s.pi.toNat with
  | none => rfl
  | some p =>
    simp only [mapNext_ite]
    rfl

theorem stepIpBase_withIgnored (y z : Word) (s : State) :
    stepIpBase (withIgnored y z s) = mapNext (withIgnored y z) (stepIpBase s) := by
  simp only [stepIpBase, show (withIgnored y z s).bi = s.bi from rfl]
  cases romRead .base s.bi.toNat with
  | none => rfl
  | some a =>
    simp only [mapNext_ite, nextBase_withIgnored]
    rfl

/-- Only `MM_EXEC` reads the second and third operands from their latches. -/
theorem controllerStep_withIgnored (y z : Word) {s : State} (h : s.phase ≠ .mmExec) :
    controllerStep (withIgnored y z s) = mapNext (withIgnored y z) (controllerStep s) := by
  unfold controllerStep
  rw [show (withIgnored y z s).phase = s.phase from rfl]
  split
  case h_1 => rfl
  case h_2 hphase => exact absurd hphase h
  case h_3 => exact mexpStep_withIgnored y z s rfl
  case h_4 =>
    simp only [stepIpRange, mapNext_ite]
    rfl
  case h_5 => exact stepIpTrial_withIgnored y z s
  case h_6 =>
    simp only [stepIpDecomp, mapNext_ite]
    rfl
  case h_7 => exact stepIpBase_withIgnored y z s
  case h_8 => exact mexpStep_withIgnored y z s rfl
  case h_9 =>
    simp only [stepIpCheck, mapNext_ite, ← nextBase_withIgnored]
    rfl
  case h_10 =>
    simp only [stepIpSquare, mapNext_ite, ← nextBase_withIgnored]
    rfl

/-- `MM_EXEC` is entered by accept only. -/
theorem controllerStep_ne_mmExec {s t : State} (hs : s.phase ≠ .mmExec) (h : controllerStep s = .next t) :
    t.phase ≠ .mmExec := by
  have hedges : ∀ e ∈ phaseEdges, e.1 ≠ .idle → e.2 ≠ .mmExec := by decide
  by_cases hidle : s.phase = .idle
  · have hst : controllerStep s = .next s := by simp only [controllerStep, hidle]
    cases hst.symm.trans h
    exact hs
  · exact hedges _ (controllerStep_edge h) hidle

/-- Other values in `CY` and `CZ` stay beside a whole run that never multiplies for `mul_mod`. -/
theorem run_withIgnored (y z : Word) {k : Nat} {s u : State} (hin : s.inputs = []) (hs : s.phase ≠ .mmExec)
    (h : run k s = .next u) : run k (withIgnored y z s) = .next (withIgnored y z u) := by
  induction k generalizing s with
  | zero =>
    cases h
    rfl
  | succ k ih =>
    cases hc : controllerStep s with
    | next t =>
      have hstep : step s = .next t := (step_eq_controllerStep hin).trans hc
      have hstep' : step (withIgnored y z s) = .next (withIgnored y z t) := by
        rw [step_eq_controllerStep (s := withIgnored y z s) hin, controllerStep_withIgnored y z hs, hc]
        rfl
      rw [run_succ_of_step hstep] at h
      rw [run_succ_of_step hstep']
      exact ih ((controllerStep_inputs hc).trans hin) (controllerStep_ne_mmExec hs hc) h
    | fault f => simp [run, step_eq_controllerStep hin, hc] at h
    | refused f => simp [run, step_eq_controllerStep hin, hc] at h

/-- A run from a state the invariant allows, with the ports released, goes on for any number of steps. -/
theorem run_progress {s : State} (hs : StateInvariant s) (hin : s.inputs = []) (k : Nat) :
    ∃ u, run k s = .next u := by
  obtain ⟨u, -, hu, -⟩ := run_liveView (k := k) hs hs hin hin rfl
  exact ⟨u, hu⟩

/-- Settles O56: the two accepts differ in `CY` and `CZ` only, and so does everything after them. -/
theorem ignoredFieldsChangeNothingVisible : Obligations.IgnoredFieldsChangeNothingVisible := by
  unfold Obligations.IgnoredFieldsChangeNothingVisible
  intro n y z y' z' s hs hidle hin k
  have hexec : exec (.isProbablePrime n y z) s = .next (gotoPhase .ipRange (latchCommand 2 n y z s)) :=
    exec_idle hidle
  have hexec' : exec (.isProbablePrime n y' z') s =
      .next (withIgnored y' z' (gotoPhase .ipRange (latchCommand 2 n y z s))) := exec_idle hidle
  obtain ⟨u, hu⟩ := run_progress (exec_keepsInvariant hidle hs.1 hexec) hin k
  refine ⟨_, _, u, withIgnored y' z' u, hexec, hexec', hu, run_withIgnored y' z' hin ?_ hu, ?_⟩
  · simp
  · exact (outputs_withIgnored y' z' u).symm

end Sys2Proof.Machine

/-! PROOFS. The text of a command assembles to its word (30_encoding.md R51): the digits of a literal give its value back,
and the blanks and commas of a rendered line are where the assembler looks for them. -/

namespace Sys2Proof.Machine

/-! ### The literals of a rendered line -/

/-- The digit written for a value is a letter or a digit, and is read as that value. -/
theorem hexDigit_spec : ∀ v < 16, digitValue 16 (hexDigit v) = some v ∧ isNameChar (hexDigit v) = true := by
  decide

/-- The low `k` hexadecimal digits of `v` continue `acc` by the value of those digits. -/
theorem digitsValue_hexDigits (v k acc : Nat) :
    digitsValue 16 acc (hexDigits v k) = some (acc * 16 ^ k + v % 16 ^ k) := by
  induction k generalizing acc with
  | zero => simp [hexDigits, digitsValue, Nat.mod_one]
  | succ k ih =>
    have hdigit : digitValue 16 (hexDigit (v / 16 ^ k % 16)) = some (v / 16 ^ k % 16) :=
      (hexDigit_spec _ (Nat.mod_lt _ (by decide))).1
    rw [hexDigits, digitsValue, hdigit, Option.bind_some, ih, Nat.mod_pow_succ]
    congr 1
    ring

theorem literalValue_renderWord (v : Word) : literalValue (renderWord v) = .ok v.toNat := by
  have hdigits : digitsValue 16 0 (hexDigits v.toNat 16) = some v.toNat := by
    rw [digitsValue_hexDigits, zero_mul, zero_add, Nat.mod_eq_of_lt (show v.toNat < 16 ^ 16 from v.isLt)]
  have hnumber : numberValue 16 (hexDigits v.toNat 16) = some v.toNat := hdigits
  simp only [renderWord, literalValue, hnumber, Option.elim_some]

theorem parseOperand_renderWord (v : Word) : parseOperand (renderWord v) = .ok (.literal v) := by
  unfold parseOperand
  split
  case h_1 heq => simp [renderWord] at heq
  case h_2 => simp only [literalValue_renderWord, v.isLt, if_true, BitVec.ofNat_toNat, BitVec.setWidth_eq]

theorem hexDigits_isNameChar (v k : Nat) : ∀ c ∈ hexDigits v k, isNameChar c = true := by
  induction k with
  | zero => simp [hexDigits]
  | succ k ih =>
    rw [hexDigits, List.forall_mem_cons]
    exact ⟨(hexDigit_spec _ (Nat.mod_lt _ (by decide))).2, ih⟩

theorem renderWord_isNameChar (v : Word) : ∀ c ∈ renderWord v, isNameChar c = true := by
  rw [renderWord, List.forall_mem_cons, List.forall_mem_cons]
  exact ⟨rfl, rfl, hexDigits_isNameChar _ _⟩

/-- The characters of mnemonics and literals are none of those the assembler looks for. -/
theorem ne_of_isNameChar {c d : Char} (hc : isNameChar c = true) (hd : isNameChar d = false) : c ≠ d := by
  rintro rfl
  exact Bool.false_ne_true (hd.symm.trans hc)

theorem isBlank_of_isNameChar {c : Char} (hc : isNameChar c = true) : isBlank c = false := by
  have hspace : c ≠ ' ' := ne_of_isNameChar hc rfl
  have htab : c ≠ '\t' := ne_of_isNameChar hc rfl
  simp [isBlank, hspace, htab]

/-! ### Blanks and commas -/

theorem dropWhile_isBlank_eq_self {cs : List Char} (h : ∀ c ∈ cs.head?, isBlank c = false) :
    cs.dropWhile isBlank = cs := by
  cases cs with
  | nil => rfl
  | cons c cs => rw [List.dropWhile_cons_of_neg (by simpa using h c rfl)]

/-- A text without a blank at either end has nothing to trim. -/
theorem trimBlanks_eq_self {cs : List Char} (hhead : ∀ c ∈ cs.head?, isBlank c = false)
    (hlast : ∀ c ∈ cs.getLast?, isBlank c = false) : trimBlanks cs = cs := by
  rw [trimBlanks, dropWhile_isBlank_eq_self hhead, dropWhile_isBlank_eq_self (by rwa [List.head?_reverse]),
    List.reverse_reverse]

theorem trimBlanks_cons_blank (cs : List Char) : trimBlanks (' ' :: cs) = trimBlanks cs := rfl

theorem splitCommas_of_no_comma {f : List Char} (hf : ∀ c ∈ f, c ≠ ',') : splitCommas f = [f] := by
  induction f with
  | nil => rfl
  | cons c f ih =>
    obtain ⟨hc, hf⟩ := List.forall_mem_cons.1 hf
    rw [splitCommas, if_neg hc, ih hf]

theorem splitCommas_append_comma {f : List Char} (hf : ∀ c ∈ f, c ≠ ',') (rest : List Char) :
    splitCommas (f ++ ',' :: rest) = f :: splitCommas rest := by
  induction f with
  | nil => rw [List.nil_append, splitCommas, if_pos rfl]
  | cons c f ih =>
    obtain ⟨hc, hf⟩ := List.forall_mem_cons.1 hf
    rw [List.cons_append, splitCommas, if_neg hc, ih hf]

/-! ### The operands of a rendered line -/

/-- The text of one operand or more, as `renderLine` puts it after the mnemonic: a blank before each, a comma after each
but the last. -/
def operandsText (v : Word) : List Word → List Char
  | [] => ' ' :: renderWord v
  | v' :: vs => ' ' :: renderWord v ++ ',' :: operandsText v' vs

theorem operandsText_eq_cons (v : Word) (vs : List Word) : ∃ cs, operandsText v vs = ' ' :: cs := by
  cases vs with
  | nil => exact ⟨_, rfl⟩
  | cons v' vs => exact ⟨_, rfl⟩

theorem operandsText_ne_nil (v : Word) (vs : List Word) : operandsText v vs ≠ [] := by
  obtain ⟨cs, hcs⟩ := operandsText_eq_cons v vs
  simp [hcs]

theorem blank_renderWord_ne_comma (v : Word) : ∀ c ∈ ' ' :: renderWord v, c ≠ ',' := by
  rw [List.forall_mem_cons]
  exact ⟨by decide, fun c hc => ne_of_isNameChar (renderWord_isNameChar v c hc) rfl⟩

theorem trimBlanks_renderWord (v : Word) : trimBlanks (' ' :: renderWord v) = renderWord v := by
  rw [trimBlanks_cons_blank]
  exact trimBlanks_eq_self
    (fun c hc => isBlank_of_isNameChar (renderWord_isNameChar v c (List.mem_of_mem_head? hc)))
    (fun c hc => isBlank_of_isNameChar (renderWord_isNameChar v c (List.mem_of_getLast? hc)))

theorem parseOperands_cons_renderWord (v : Word) {rest : List (List Char)} {os : List LineOperand}
    (h : parseOperands rest = .ok os) :
    parseOperands ((' ' :: renderWord v) :: rest) = .ok (.literal v :: os) := by
  simp only [parseOperands, trimBlanks_renderWord, parseOperand_renderWord, h]

/-- The assembler reads the operands of a rendered line back. -/
theorem parseOperands_operandsText (v : Word) (vs : List Word) :
    parseOperands (splitCommas (operandsText v vs)) = .ok ((v :: vs).map .literal) := by
  induction vs generalizing v with
  | nil =>
    rw [operandsText, splitCommas_of_no_comma (blank_renderWord_ne_comma v)]
    exact parseOperands_cons_renderWord v rfl
  | cons v' vs ih =>
    rw [operandsText, splitCommas_append_comma (blank_renderWord_ne_comma v)]
    exact parseOperands_cons_renderWord v (ih v')

theorem operandsText_ne_hash (v : Word) (vs : List Word) : ∀ c ∈ operandsText v vs, c ≠ '#' := by
  have hword (v : Word) : ∀ c ∈ ' ' :: renderWord v, c ≠ '#' := by
    rw [List.forall_mem_cons]
    exact ⟨by decide, fun c hc => ne_of_isNameChar (renderWord_isNameChar v c hc) rfl⟩
  induction vs generalizing v with
  | nil => exact hword v
  | cons v' vs ih =>
    rw [operandsText, List.forall_mem_append, List.forall_mem_cons (p := (· ≠ '#')) (a := ',')]
    exact ⟨hword v, by decide, ih v'⟩

theorem operandsText_getLast (v : Word) (vs : List Word) :
    ∀ c ∈ (operandsText v vs).getLast?, isBlank c = false := by
  induction vs generalizing v with
  | nil =>
    intro c hc
    rw [operandsText, List.getLast?_cons_of_ne_nil (by simp [renderWord])] at hc
    exact isBlank_of_isNameChar (renderWord_isNameChar v c (List.mem_of_getLast? hc))
  | cons v' vs ih =>
    intro c hc
    rw [operandsText, List.getLast?_append_cons, List.getLast?_cons_of_ne_nil (operandsText_ne_nil v' vs)] at hc
    exact ih v' c hc

/-! ### The whole line -/

section
variable {mnemonic : List Char} (hmn : mnemonic.all isNameChar = true) (v : Word) (vs : List Word)
include hmn

theorem takeWhile_mnemonic :
    (mnemonic ++ operandsText v vs).takeWhile (fun c => !isBlank c) = mnemonic := by
  obtain ⟨cs, hcs⟩ := operandsText_eq_cons v vs
  rw [List.takeWhile_append_of_pos fun c hc => by simp [isBlank_of_isNameChar (List.all_eq_true.1 hmn c hc)], hcs,
    List.takeWhile_cons_of_neg (by decide), List.append_nil]

theorem dropWhile_mnemonic :
    (mnemonic ++ operandsText v vs).dropWhile (fun c => !isBlank c) = operandsText v vs := by
  obtain ⟨cs, hcs⟩ := operandsText_eq_cons v vs
  rw [List.dropWhile_append_of_pos fun c hc => by simp [isBlank_of_isNameChar (List.all_eq_true.1 hmn c hc)], hcs,
    List.dropWhile_cons_of_neg (by decide)]

/-- A line that begins with a mnemonic binds no variable and is assembled as it stands. -/
theorem assembleLine_mnemonic (hne : mnemonic ≠ []) {cmd : LineCommand}
    (hcmd : parseCommand (mnemonic ++ operandsText v vs) = .ok cmd) :
    assembleLine (mnemonic ++ operandsText v vs) = .ok (some ⟨none, cmd⟩) := by
  obtain ⟨c, cs, rfl⟩ := List.exists_cons_of_ne_nil hne
  have hc : isNameChar c = true := List.all_eq_true.1 hmn c (by simp)
  have hblank : isBlank c = false := isBlank_of_isNameChar hc
  have hdollar : c ≠ '$' := ne_of_isNameChar hc rfl
  have hstrip : stripComment (c :: cs ++ operandsText v vs) = c :: cs ++ operandsText v vs := by
    rw [stripComment, List.takeWhile_eq_self_iff, List.forall_mem_append]
    exact ⟨fun d hd => by simpa using ne_of_isNameChar (List.all_eq_true.1 hmn d hd) (d := '#') rfl,
      fun d hd => by simpa using operandsText_ne_hash v vs d hd⟩
  have htrim : trimBlanks (c :: cs ++ operandsText v vs) = c :: cs ++ operandsText v vs := by
    refine trimBlanks_eq_self (by simpa using hblank) fun d hd => ?_
    rw [List.getLast?_append_of_ne_nil _ (operandsText_ne_nil v vs)] at hd
    exact operandsText_getLast v vs d hd
  unfold assembleLine
  rw [hstrip, htrim]
  split
  · simp_all
  · simp_all
  · rw [hcmd]
    rfl

end

theorem parseCommand_mulMod (a b m : Word) :
    parseCommand ("mul_mod".toList ++ operandsText a [b, m]) =
      .ok (.mulMod (.literal a) (.literal b) (.literal m)) := by
  have hmn : "mul_mod".toList.all isNameChar = true := rfl
  simp only [parseCommand, takeWhile_mnemonic hmn, dropWhile_mnemonic hmn, parseOperands_operandsText]
  rfl

theorem parseCommand_powMod (a e m : Word) :
    parseCommand ("pow_mod".toList ++ operandsText a [e, m]) =
      .ok (.powMod (.literal a) (.literal e) (.literal m)) := by
  have hmn : "pow_mod".toList.all isNameChar = true := rfl
  simp only [parseCommand, takeWhile_mnemonic hmn, dropWhile_mnemonic hmn, parseOperands_operandsText]
  rfl

theorem parseCommand_isProbablePrime (n : Word) :
    parseCommand ("is_probable_prime".toList ++ operandsText n []) = .ok (.isProbablePrime (.literal n)) := by
  have hmn : "is_probable_prime".toList.all isNameChar = true := rfl
  simp only [parseCommand, takeWhile_mnemonic hmn, dropWhile_mnemonic hmn, parseOperands_operandsText]
  rfl

/-- Settles O58: a rendered line is a mnemonic and its operands, which the assembler reads back. -/
theorem renderedLineAssemblesToItsWord : Obligations.RenderedLineAssemblesToItsWord := by
  unfold Obligations.RenderedLineAssemblesToItsWord
  intro i text h
  cases i with
  | mulMod a b m =>
    obtain rfl : "mul_mod".toList ++ operandsText a [b, m] = text := by simpa [renderLine, operandsText] using h
    exact ⟨_, assembleLine_mnemonic rfl a _ (by simp) (parseCommand_mulMod a b m), rfl, rfl⟩
  | powMod a e m =>
    obtain rfl : "pow_mod".toList ++ operandsText a [e, m] = text := by simpa [renderLine, operandsText] using h
    exact ⟨_, assembleLine_mnemonic rfl a _ (by simp) (parseCommand_powMod a e m), rfl, rfl⟩
  | isProbablePrime n y z =>
    obtain ⟨⟨rfl, rfl⟩, htext⟩ := Option.ite_none_right_eq_some.1 h
    obtain rfl : "is_probable_prime".toList ++ operandsText n [] = text := by
      simpa [operandsText] using htext
    exact ⟨_, assembleLine_mnemonic rfl n _ (by simp) (parseCommand_isProbablePrime n), rfl, rfl⟩
  | reserved x y z => simp [renderLine] at h

end Sys2Proof.Machine

/-! PROOFS. The values of `mulmod` and `powmod` over the integers (40_widening_multiplier.md R58,
41_modular_exponentiator.md R75). -/

namespace Sys2Proof.Machine

/-- The product fits its 128 bits (40_widening_multiplier.md R56). -/
theorem product_toNat (a b : Word) : (product a b).toNat = a.toNat * b.toNat := by
  have hlt : a.toNat * b.toNat < 2 ^ 64 * 2 ^ 64 := Nat.mul_lt_mul'' a.isLt b.isLt
  rw [product, BitVec.toNat_mul, BitVec.toNat_setWidth_of_le (by decide), BitVec.toNat_setWidth_of_le (by decide)]
  exact Nat.mod_eq_of_lt hlt

theorem mulmod_toNat {m : Word} (hm : m ≠ 0) (a b : Word) :
    (mulmod a b m).toNat = a.toNat * b.toNat % m.toNat := by
  have hpos : 0 < m.toNat := by bv_omega
  have hmod : a.toNat * b.toNat % m.toNat < m.toNat := Nat.mod_lt _ hpos
  rw [mulmod, reduce, BitVec.toNat_setWidth, BitVec.toNat_umod, product_toNat,
    BitVec.toNat_setWidth_of_le (by decide), Nat.mod_eq_of_lt (by omega)]

/-- One pass of the square-and-multiply loop leaves `r * b ^ e` modulo `m` as it is. -/
theorem squareMultiply_modEq (m r b e : Nat) :
    (if e % 2 = 1 then r * b % m else r) * (b * b % m) ^ (e / 2) ≡ r * b ^ e [MOD m] := by
  have hsquare : (b * b % m) ^ (e / 2) ≡ b ^ (2 * (e / 2)) [MOD m] := by
    rw [pow_mul, pow_two]
    exact (Nat.mod_modEq _ _).pow _
  split_ifs with hodd
  · calc r * b % m * (b * b % m) ^ (e / 2)
        ≡ r * b * b ^ (2 * (e / 2)) [MOD m] := (Nat.mod_modEq _ _).mul hsquare
      _ = r * b ^ e := by rw [mul_assoc, ← pow_succ', show 2 * (e / 2) + 1 = e by omega]
  · calc r * (b * b % m) ^ (e / 2)
        ≡ r * b ^ (2 * (e / 2)) [MOD m] := hsquare.mul_left r
      _ = r * b ^ e := by rw [show 2 * (e / 2) = e by omega]

theorem toNat_ushiftRight_one (e : Word) : (e >>> 1).toNat = e.toNat / 2 := by
  rw [BitVec.toNat_ushiftRight, Nat.shiftRight_one]

/-- The running result after one pass, over the integers. -/
theorem mulmodIf_toNat {m : Word} (hm : m ≠ 0) (r b e : Word) :
    (if lowBit e then mulmod r b m else r).toNat =
      if e.toNat % 2 = 1 then r.toNat * b.toNat % m.toNat else r.toNat := by
  simp only [lowBit_eq_true_iff]
  split_ifs
  · exact mulmod_toNat hm r b
  · rfl

theorem mulmodIf_lt {m r : Word} (hm : m ≠ 0) (hr : r < m) (b e : Word) :
    (if lowBit e then mulmod r b m else r) < m := by
  split_ifs
  · exact mulmod_lt hm r b
  · exact hr

/-- Enough passes of the loop multiply `r` by `b ^ e` modulo `m`. -/
theorem powmodLoop_toNat {m : Word} (hm : m ≠ 0) {k : Nat} {r b e : Word} (he : e.toNat < 2 ^ k) (hr : r < m) :
    (powmodLoop m k r b e).toNat = r.toNat * b.toNat ^ e.toNat % m.toNat := by
  induction k generalizing r b e with
  | zero =>
    have he0 : e.toNat = 0 := by omega
    rw [he0, pow_zero, mul_one, Nat.mod_eq_of_lt hr]
    rfl
  | succ k ih =>
    rw [powmodLoop]
    by_cases he0 : e = 0
    · rw [if_pos he0, he0, show (0 : Word).toNat = 0 from rfl, pow_zero, mul_one, Nat.mod_eq_of_lt hr]
    · have hhalf : (e >>> 1).toNat = e.toNat / 2 := toNat_ushiftRight_one e
      rw [if_neg he0, ih (by omega) (mulmodIf_lt hm hr b e), mulmodIf_toNat hm, mulmod_toNat hm, hhalf]
      exact squareMultiply_modEq _ _ _ _

theorem powmod_toNat {m : Word} (hm : m ≠ 0) (a e : Word) :
    (powmod a e m).toNat = a.toNat ^ e.toNat % m.toNat := by
  rw [powmod, powmodLoop_toNat hm e.isLt (one_umod_lt hm), BitVec.toNat_umod,
    show (1 : Word).toNat = 1 from rfl, ← one_mul (a.toNat ^ e.toNat), Nat.mod_mul_mod]
  simp

end Sys2Proof.Machine

/-! PROOFS. Commands run to their end: busy runs of the block, and the exponentiation that `PM_LOOP` and `IP_POW`
share. -/

namespace Sys2Proof.Machine

/-! ### Samples without reset -/

theorem NoResetFor.mono {j k : Nat} {s : State} (h : NoResetFor k s) (hjk : j ≤ k) : NoResetFor j s :=
  fun p hp => h p (List.take_subset_take_left _ hjk hp)

theorem NoResetFor.sample {k : Nat} {s : State} (h : NoResetFor (k + 1) s) : (sampleOf s).rst = false := by
  unfold sampleOf
  cases hin : s.inputs with
  | nil => rfl
  | cons p ps => exact h p (by simp [hin])

/-- After `j` steps, the samples of the next `k` steps are among those of the first `j + k`. -/
theorem NoResetFor.after {j k : Nat} {s t : State} (h : NoResetFor (j + k) s) (ht : t.inputs = s.inputs.drop j) :
    NoResetFor k t := by
  intro p hp
  rw [ht, List.take_drop] at hp
  exact h p (List.mem_of_mem_drop hp)

theorem step_busy {s : State} (hr : (sampleOf s).rst = false) (hb : busy s = true) :
    step s = controllerStep (dropSample s) := by
  simp [step, hr, hb]

/-! ### Busy runs -/

/-- `k` steps from `s` to `u`, the block being busy and without a response before each of them. -/
inductive BusyRun : Nat → State → State → Prop
  /-- no step -/
  | refl (s : State) : BusyRun 0 s s
  /-- a first step, and the run after it -/
  | head {k : Nat} {s t u : State} (hb : busy s = true) (hv : s.rspValid = false) (hs : step s = .next t)
      (hr : BusyRun k t u) : BusyRun (k + 1) s u

theorem BusyRun.run_eq {k : Nat} {s u : State} (h : BusyRun k s u) : run k s = .next u := by
  induction h with
  | refl s => rfl
  | head _ _ hs _ ih => rw [run_succ_of_step hs, ih]

theorem BusyRun.trans {j k : Nat} {s t u : State} (h : BusyRun j s t) (h' : BusyRun k t u) :
    BusyRun (j + k) s u := by
  induction h with
  | refl s => rwa [zero_add]
  | head hb hv hs _ ih => exact Nat.succ_add _ _ ▸ .head hb hv hs (ih h')

/-- Before its end a busy run shows no response. -/
theorem BusyRun.before {k : Nat} {s u : State} (h : BusyRun k s u) :
    ∀ j < k, ∃ v, run j s = .next v ∧ busy v = true ∧ v.rspValid = false := by
  induction h with
  | refl s => exact fun j hj => absurd hj (Nat.not_lt_zero j)
  | head hb hv hs _ ih =>
    intro j hj
    cases j with
    | zero => exact ⟨_, rfl, hb, hv⟩
    | succ j =>
      rw [run_succ_of_step hs]
      exact ih j (by omega)

/-! ### Completion -/

/-- Unless reset intervenes, the command in progress ends normally with the result `v`, after at most `n` steps. -/
def CompletesWithin (n : Nat) (v : Word) (s : State) : Prop :=
  NoResetFor n s → ∃ k ≤ n, ∃ u, BusyRun k s u ∧
    u.phase = .idle ∧ u.rspValid = true ∧ u.rspErr = 0 ∧ u.rspData = some v

theorem CompletesWithin.mono {n n' : Nat} {v : Word} {s : State} (h : CompletesWithin n v s) (hn : n ≤ n') :
    CompletesWithin n' v s := by
  intro hreset
  obtain ⟨k, hk, u, hu⟩ := h (hreset.mono hn)
  exact ⟨k, hk.trans hn, u, hu⟩

theorem completesWithin_complete (n : Nat) (v : Word) (s : State) : CompletesWithin n v (complete v s) :=
  fun _ => ⟨0, n.zero_le, _, .refl _, rfl, rfl, rfl, rfl⟩

/-- A busy run to a state that completes. -/
theorem CompletesWithin.of_busyRun {j n : Nat} {v : Word} {s t : State} (ht : t.inputs = s.inputs.drop j)
    (hrun : NoResetFor j s → BusyRun j s t) (h : CompletesWithin n v t) : CompletesWithin (j + n) v s := by
  intro hreset
  obtain ⟨k, hk, u, hu, hend⟩ := h (hreset.after ht)
  exact ⟨j + k, by omega, u, (hrun (hreset.mono (by omega))).trans hu, hend⟩

/-- One step of the controller to a state that completes. -/
theorem CompletesWithin.of_controllerStep {n : Nat} {v : Word} {s t : State} (hphase : s.phase ≠ .idle)
    (hv : s.rspValid = false) (hs : controllerStep (dropSample s) = .next t) (h : CompletesWithin n v t) :
    CompletesWithin (1 + n) v s := by
  have hb : busy s = true := by simpa [busy] using hphase
  have hin : t.inputs = s.inputs.drop 1 := by simpa using controllerStep_inputs hs
  exact .of_busyRun hin (fun hr => .head hb hv ((step_busy hr.sample hb).trans hs) (.refl t)) h

/-! ### The exponentiation -/

theorem bitlen_of_ne_zero {e : Word} (he : e ≠ 0) : bitlen e = bitlen (e >>> 1) + 1 := by
  have hhalf : (e >>> 1).toNat = e.toNat / 2 := toNat_ushiftRight_one e
  by_cases h1 : e >>> 1 = 0
  · have he1 : e.toNat = 1 := by bv_omega
    rw [bitlen, bitlen, if_neg he, if_pos h1, he1]
    rfl
  · have h2 : 2 ≤ e.toNat := by bv_omega
    rw [bitlen, bitlen, if_neg he, if_neg h1, hhalf, Nat.log2_def, if_pos h2]

/-- A factor `2 ^ r` leaves that many fewer bits of 64. -/
theorem bitlen_add_le {e : Word} {r : Nat} (h : e.toNat * 2 ^ r < 2 ^ 64) (hr : r ≤ 64) : bitlen e + r ≤ 64 := by
  unfold bitlen
  split_ifs with he
  · omega
  · have hne : e.toNat ≠ 0 := by bv_omega
    have hsplit : 2 ^ 64 = 2 ^ (64 - r) * 2 ^ r := by rw [← pow_add, Nat.sub_add_cancel hr]
    have hlt : e.toNat.log2 < 64 - r := (Nat.log2_lt hne).2 (lt_of_mul_lt_mul_right (hsplit ▸ h) (Nat.zero_le _))
    omega

theorem mexpStep_done {done : State → State} {s : State} (he : s.xe = 0) :
    mexpStep done s = .next (done s) := if_pos he

theorem mexpStep_iter {done : State → State} {s : State} (he : s.xe ≠ 0) (hm : s.xm ≠ 0) :
    mexpStep done s = .next (mexpIter s) := (if_neg he).trans (if_neg hm)

theorem powmodLoop_zero (m : Word) (k : Nat) (r b : Word) : powmodLoop m k r b 0 = r := by
  cases k <;> rfl

/-- `s` after the iterations its exponent asks for: `XE` is 0, `XR` has the value of the loop of at most `k` passes, and
`b` is left in the base register. -/
def powered (k : Nat) (b : Word) (s : State) : State :=
  { s with xr := powmodLoop s.xm k s.xr s.xb s.xe, xb := b, xe := 0, inputs := s.inputs.drop (bitlen s.xe) }

theorem powered_of_xe_eq_zero (k : Nat) {s : State} (he : s.xe = 0) : powered k s.xb s = s := by
  cases s
  dsimp only at he
  subst he
  simp only [powered, powmodLoop_zero]
  rfl

/-- One iteration, and then those the shifted exponent asks for. -/
theorem powered_mexpIter (k : Nat) (b : Word) {s : State} (he : s.xe ≠ 0) :
    powered k b (mexpIter (dropSample s)) = powered (k + 1) b s := by
  simp only [powered, powmodLoop, if_neg he, bitlen_of_ne_zero he, ← List.drop_tail]
  rfl

/-- In a phase that steps by `mexpStep`, the block is busy for `bitlen XE` iterations (41_modular_exponentiator.md R68),
whatever the host drives but reset. -/
theorem busyRun_mexp {p : Phase} {done : State → State} (hp : p ≠ .idle)
    (hstep : ∀ t : State, t.phase = p → controllerStep t = mexpStep done t) {k : Nat} {s : State}
    (hlt : s.xe.toNat < 2 ^ k) (hphase : s.phase = p) (hm : s.xm ≠ 0) (hv : s.rspValid = false)
    (hreset : NoResetFor (bitlen s.xe) s) : ∃ b, BusyRun (bitlen s.xe) s (powered k b s) := by
  induction k generalizing s with
  | zero =>
    have he : s.xe = 0 := by bv_omega
    rw [he]
    exact ⟨s.xb, (powered_of_xe_eq_zero 0 he).symm ▸ .refl s⟩
  | succ k ih =>
    by_cases he : s.xe = 0
    · rw [he]
      exact ⟨s.xb, (powered_of_xe_eq_zero (k + 1) he).symm ▸ .refl s⟩
    · have hhalf : (s.xe >>> 1).toNat < 2 ^ k := by
        rw [toNat_ushiftRight_one]
        omega
      have hiter : controllerStep (dropSample s) = .next (mexpIter (dropSample s)) :=
        (hstep (dropSample s) hphase).trans (mexpStep_iter he hm)
      have hb : busy s = true := by simpa [busy, hphase] using hp
      rw [bitlen_of_ne_zero he] at hreset ⊢
      have hstep1 : step s = .next (mexpIter (dropSample s)) := (step_busy hreset.sample hb).trans hiter
      have hreset1 : NoResetFor (bitlen (s.xe >>> 1)) (mexpIter (dropSample s)) := by
        rw [Nat.add_comm] at hreset
        exact hreset.after (by simp)
      obtain ⟨b, hrun⟩ := ih (s := mexpIter (dropSample s)) hhalf hphase hm hv hreset1
      exact ⟨b, powered_mexpIter k b he ▸ .head hb hv hstep1 hrun⟩

/-- A command in such a phase completes when it does from the end of the exponentiation. -/
theorem completesWithin_mexp {p : Phase} {done : State → State} (hp : p ≠ .idle)
    (hstep : ∀ t : State, t.phase = p → controllerStep t = mexpStep done t) {n : Nat} {v : Word} {s : State}
    (hphase : s.phase = p) (hm : s.xm ≠ 0) (hv : s.rspValid = false)
    (hdone : ∀ b, CompletesWithin n v (done (dropSample (powered 64 b s)))) :
    CompletesWithin (bitlen s.xe + (1 + n)) v s := by
  intro hreset
  obtain ⟨b, hrun⟩ := busyRun_mexp hp hstep s.xe.isLt hphase hm hv (hreset.mono (by omega))
  have hend : controllerStep (dropSample (powered 64 b s)) = .next (done (dropSample (powered 64 b s))) :=
    (hstep (dropSample (powered 64 b s)) hphase).trans (mexpStep_done rfl)
  have hphase' : (powered 64 b s).phase ≠ .idle := by
    rw [show (powered 64 b s).phase = s.phase from rfl, hphase]
    exact hp
  exact CompletesWithin.of_busyRun rfl (fun _ => hrun) (.of_controllerStep hphase' hv hend (hdone b)) hreset

theorem completesWithin_pmLoop {s : State} (hphase : s.phase = .pmLoop) (hm : s.xm ≠ 0)
    (hv : s.rspValid = false) :
    CompletesWithin (bitlen s.xe + 1) (powmodLoop s.xm 64 s.xr s.xb s.xe) s := by
  have hstep : ∀ t : State, t.phase = .pmLoop → controllerStep t = mexpStep (fun t => complete t.xr t) t := by
    intro t ht
    simp only [controllerStep, ht, stepPmLoop]
  exact completesWithin_mexp (by decide) hstep hphase hm hv fun b => completesWithin_complete 0 _ _

theorem completesWithin_mmExec {s : State} (hphase : s.phase = .mmExec) (hcz : s.cz ≠ 0)
    (hv : s.rspValid = false) : CompletesWithin 1 (mulmod s.cx s.cy s.cz) s := by
  have hstep : controllerStep (dropSample s) = .next (complete (mulmod s.cx s.cy s.cz) (dropSample s)) := by
    simp only [controllerStep, dropSample_phase, hphase]
    exact if_neg hcz
  exact .of_controllerStep (by simp [hphase]) hv hstep (completesWithin_complete 0 _ _)

end Sys2Proof.Machine

/-! PROOFS. The controller's phases of `is_probable_prime` compute `verdict` within 546 steps
(42_miller_rabin_test.md R90, R95): one lemma per phase, from the last phase back to the first. -/

namespace Sys2Proof.Machine

/-! ### What each phase's step does, branch by branch -/

section
variable {s : State}

theorem controllerStep_ipRange (h : s.phase = .ipRange) : controllerStep s = stepIpRange s := by
  simp only [controllerStep, h]

theorem controllerStep_ipTrial (h : s.phase = .ipTrial) : controllerStep s = stepIpTrial s := by
  simp only [controllerStep, h]

theorem controllerStep_ipDecomp (h : s.phase = .ipDecomp) : controllerStep s = stepIpDecomp s := by
  simp only [controllerStep, h]

theorem controllerStep_ipBase (h : s.phase = .ipBase) : controllerStep s = stepIpBase s := by
  simp only [controllerStep, h]

theorem controllerStep_ipPow (h : s.phase = .ipPow) : controllerStep s = stepIpPow s := by
  simp only [controllerStep, h]

theorem controllerStep_ipCheck (h : s.phase = .ipCheck) : controllerStep s = stepIpCheck s := by
  simp only [controllerStep, h]

theorem controllerStep_ipSquare (h : s.phase = .ipSquare) : controllerStep s = stepIpSquare s := by
  simp only [controllerStep, h]

theorem stepIpTrial_of_romRead {p : Word} (hp : romRead .smallPrime s.pi.toNat = some p) :
    stepIpTrial s =
      if trialRem s.cx p = 0 then .next (complete (verdictWord (s.cx == p)) s)
      else if s.pi = 11 then .next { s with d := s.cx - 1, r := 0, phase := .ipDecomp }
      else .next { s with pi := s.pi + 1 } := by
  simp only [stepIpTrial, hp]

theorem stepIpDecomp_odd (h : lowBit s.d = true) :
    stepIpDecomp s = .next { s with bi := 0, phase := .ipBase } := if_pos h

theorem stepIpDecomp_even (h : lowBit s.d ≠ true) (hr : s.r ≠ 63) :
    stepIpDecomp s = .next { s with d := s.d >>> 1, r := s.r + 1 } := (if_neg h).trans (if_neg hr)

theorem nextBase_last (h : s.bi = 6) : nextBase s = .next (complete (verdictWord true) s) := if_pos h

theorem nextBase_more (h : s.bi.toNat < 6) : nextBase s = .next { s with bi := s.bi + 1, phase := .ipBase } := by
  have h6 : s.bi ≠ 6 := by bv_omega
  have h7 : s.bi ≠ 7 := by bv_omega
  exact (if_neg h6).trans (if_neg h7)

theorem stepIpBase_of_romRead {a : Word} (ha : romRead .base s.bi.toNat = some a) :
    stepIpBase s =
      if baseSkipped s.cx a then nextBase s else .next (gotoPhase .ipPow (loadMexp a s.d s.cx s)) := by
  simp only [stepIpBase, ha]

theorem stepIpSquare_fails (h : s.r.toNat ≤ s.sq.toNat + 1) :
    stepIpSquare s = .next (complete (verdictWord false) s) := if_pos h

theorem stepIpSquare_squares (h : s.sq.toNat + 1 < s.r.toNat) (hcx : s.cx ≠ 0) :
    stepIpSquare s =
      if isPred (mulmod s.x s.x s.cx) s.cx then nextBase { s with x := mulmod s.x s.x s.cx, sq := s.sq + 1 }
      else .next { s with x := mulmod s.x s.x s.cx, sq := s.sq + 1 } :=
  (if_neg (Nat.not_le.2 h)).trans (if_neg hcx)

end

/-- A table from an entry on is that entry and the table after it. -/
theorem drop_of_romRead {t : Table} {i : Nat} {p : Word} (h : romRead t i = some p) :
    (tableEntries t).drop i = p :: (tableEntries t).drop (i + 1) := by
  obtain ⟨hi, rfl⟩ := List.getElem?_eq_some_iff.1 (show (tableEntries t)[i]? = some p from h)
  exact List.drop_eq_getElem_cons hi

/-! ### One base's turn -/

/-- A block in the witness loop: the candidate, its decomposition, the index of the base whose turn it is, and no
response yet. -/
structure Witnessing (n d : Word) (r : BitVec 6) (i : BitVec 3) (s : State) : Prop where
  /-- `CX` -/
  cx : s.cx = n
  /-- `D` -/
  d : s.d = d
  /-- `R` -/
  r : s.r = r
  /-- `BI` -/
  bi : s.bi = i
  /-- `rsp_valid` -/
  quiet : s.rspValid = false

/-- Once the turn of base `i` has passed, the block answers `rest` within `B` further steps. -/
def NextBaseAnswers (n d : Word) (r : BitVec 6) (i : BitVec 3) (B : Nat) (rest : Bool) : Prop :=
  ∀ s, Witnessing n d r i s → ∃ t, nextBase s = .next t ∧ CompletesWithin B (verdictWord rest) t

section
variable {n d : Word} {r : BitVec 6} {i : BitVec 3} {B : Nat} {rest : Bool} {s : State}

/-- A step that ends the turn by passing the base. -/
theorem NextBaseAnswers.completes_of_pass (hnext : NextBaseAnswers n d r i B rest) {t : State}
    (hw : Witnessing n d r i t) (hphase : s.phase ≠ .idle) (hquiet : s.rspValid = false)
    (hs : controllerStep (dropSample s) = nextBase t) : CompletesWithin (1 + B) (verdictWord rest) s := by
  obtain ⟨u, hu, hdone⟩ := hnext t hw
  exact .of_controllerStep hphase hquiet (hs.trans hu) hdone

variable (hnext : NextBaseAnswers n d r i (B + 1) rest) (hn : n ≠ 0)
include hnext hn

/-- The repeated squaring: the other bases decide where `n - 1` is reached, and else the candidate fails
(42_miller_rabin_test.md R87). -/
theorem completesWithin_ipSquare {k : Nat} (hw : Witnessing n d r i s)
    (hphase : s.phase = .ipSquare) (hk : s.sq.toNat + 1 + k = r.toNat) :
    CompletesWithin (k + (B + 1)) (verdictWord (squaringsReachPred n k s.x && rest)) s := by
  induction k generalizing s with
  | zero =>
    obtain ⟨rfl, rfl, rfl, rfl, hquiet⟩ := hw
    have hfail := (controllerStep_ipSquare (s := dropSample s) hphase).trans (stepIpSquare_fails hk.ge)
    exact (CompletesWithin.of_controllerStep (by simp [hphase]) hquiet hfail
      (completesWithin_complete 0 _ _)).mono (by omega)
  | succ k ih =>
    obtain ⟨rfl, rfl, rfl, rfl, hquiet⟩ := hw
    have hlt : s.sq.toNat + 1 < s.r.toNat := by omega
    have hsquare := (controllerStep_ipSquare (s := dropSample s) hphase).trans (stepIpSquare_squares hlt hn)
    simp only [squaringsReachPred]
    by_cases hpred : isPred (mulmod s.x s.x s.cx) s.cx = true
    · rw [if_pos hpred, Bool.true_and]
      exact (hnext.completes_of_pass (t := { dropSample s with x := mulmod s.x s.x s.cx, sq := s.sq + 1 })
        ⟨rfl, rfl, rfl, rfl, hquiet⟩ (by simp [hphase]) hquiet (hsquare.trans (if_pos hpred))).mono (by omega)
    · rw [if_neg hpred]
      have hsq : (s.sq + 1).toNat + 1 + k = s.r.toNat := by bv_omega
      exact (CompletesWithin.of_controllerStep (by simp [hphase]) hquiet (hsquare.trans (if_neg hpred))
        (ih ⟨rfl, rfl, rfl, rfl, hquiet⟩ hphase hsq)).mono (by omega)

/-- The first check of `a^d`, and the squarings after it (42_miller_rabin_test.md R86). -/
theorem completesWithin_ipCheck (hr : 1 ≤ r.toNat) (hw : Witnessing n d r i s) (hphase : s.phase = .ipCheck) :
    CompletesWithin (r.toNat + (B + 1))
      (verdictWord ((if s.x == 1 || isPred s.x n then true else squaringsReachPred n (r.toNat - 1) s.x) && rest))
      s := by
  obtain ⟨rfl, rfl, rfl, rfl, hquiet⟩ := hw
  have hcheck := controllerStep_ipCheck (s := dropSample s) hphase
  by_cases hx : (s.x == 1 || isPred s.x s.cx) = true
  · rw [if_pos hx, Bool.true_and]
    exact (hnext.completes_of_pass (t := dropSample s) ⟨rfl, rfl, rfl, rfl, hquiet⟩ (by simp [hphase]) hquiet
      (hcheck.trans (if_pos hx))).mono (by omega)
  · rw [if_neg hx]
    have hsq : (0 : BitVec 6).toNat + 1 + (s.r.toNat - 1) = s.r.toNat := by
      rw [show (0 : BitVec 6).toNat = 0 from rfl]
      omega
    exact (CompletesWithin.of_controllerStep (by simp [hphase]) hquiet (hcheck.trans (if_neg hx))
      (completesWithin_ipSquare hnext hn ⟨rfl, rfl, rfl, rfl, hquiet⟩ rfl hsq)).mono (by omega)

/-- The strong check of one base, from the base register loaded (42_miller_rabin_test.md R85). -/
theorem completesWithin_ipPow (hr : 1 ≤ r.toNat) (hw : Witnessing n d r i s) {a : Word} :
    CompletesWithin (bitlen d + (1 + (r.toNat + (B + 1)))) (verdictWord (sprp n d r.toNat a && rest))
      (gotoPhase .ipPow (loadMexp a d n s)) := by
  obtain ⟨rfl, rfl, rfl, rfl, hquiet⟩ := hw
  refine completesWithin_mexp (p := .ipPow) (by decide) (fun t ht => controllerStep_ipPow ht)
    (s := gotoPhase .ipPow (loadMexp a s.d s.cx s)) rfl hn hquiet fun b => ?_
  exact completesWithin_ipCheck hnext hn hr ⟨rfl, rfl, rfl, rfl, hquiet⟩ rfl

/-- The whole turn of the base `a` (42_miller_rabin_test.md R83). -/
theorem completesWithin_ipBase (hr : 1 ≤ r.toNat) (hw : Witnessing n d r i s) (hphase : s.phase = .ipBase)
    {a : Word} (ha : romRead .base i.toNat = some a) :
    CompletesWithin (1 + (bitlen d + (1 + (r.toNat + (B + 1)))))
      (verdictWord (if baseSkipped n a then rest else sprp n d r.toNat a && rest)) s := by
  have hpow := completesWithin_ipPow (s := dropSample s) hnext hn hr ⟨hw.cx, hw.d, hw.r, hw.bi, hw.quiet⟩ (a := a)
  obtain ⟨rfl, rfl, rfl, rfl, hquiet⟩ := hw
  have hbase := (controllerStep_ipBase (s := dropSample s) hphase).trans (stepIpBase_of_romRead ha)
  by_cases hskip : baseSkipped s.cx a = true
  · rw [if_pos hskip]
    exact (hnext.completes_of_pass (t := dropSample s) ⟨rfl, rfl, rfl, rfl, hquiet⟩ (by simp [hphase]) hquiet
      (hbase.trans (if_pos hskip))).mono (by omega)
  · rw [if_neg hskip]
    exact .of_controllerStep (by simp [hphase]) hquiet (hbase.trans (if_neg hskip)) hpow

end

/-! ### The witness loop -/

theorem witnessLoop_cons (n d : Word) (r : Nat) (a : Word) (as : List Word) :
    witnessLoop n d r (a :: as) =
      if baseSkipped n a then witnessLoop n d r as else sprp n d r a && witnessLoop n d r as := by
  rw [witnessLoop]
  split_ifs with hskip hpass
  · rfl
  · rw [hpass, Bool.true_and]
  · rw [Bool.eq_false_of_not_eq_true hpass, Bool.false_and]

/-- The bases from index `i` on, `k + 1` of them, at most 66 steps each: `bitlen d + r` is at most 64. -/
theorem completesWithin_witnessLoop {n d : Word} {r : BitVec 6} (hn : n ≠ 0) (hr : 1 ≤ r.toNat)
    (hbits : bitlen d + r.toNat ≤ 64) {k : Nat} {i : BitVec 3} (hi : i.toNat + k = 6) {s : State}
    (hw : Witnessing n d r i s) (hphase : s.phase = .ipBase) :
    CompletesWithin (66 * (k + 1) + 1) (verdictWord (witnessLoop n d r.toNat (bases.drop i.toNat))) s := by
  induction k generalizing i s with
  | zero =>
    obtain rfl : i = 6 := by bv_omega
    have hnext : NextBaseAnswers n d r 6 (0 + 1) (witnessLoop n d r.toNat []) := fun t ht =>
      ⟨_, nextBase_last ht.bi, completesWithin_complete _ _ _⟩
    rw [show bases.drop (6 : BitVec 3).toNat = [17] from rfl, witnessLoop_cons]
    exact (completesWithin_ipBase hnext hn hr hw hphase rfl).mono (by omega)
  | succ k ih =>
    have hlt : i.toNat < 6 := by omega
    have hi1 : (i + 1).toNat = i.toNat + 1 := by bv_omega
    obtain ⟨a, ha⟩ := exists_romRead_eq_some (t := .base) (i := i.toNat) (hlt.trans (by decide))
    have hnext : NextBaseAnswers n d r i (66 * (k + 1) + 1)
        (witnessLoop n d r.toNat (bases.drop (i.toNat + 1))) := by
      rintro t ⟨rfl, rfl, rfl, rfl, hquiet⟩
      rw [← hi1]
      exact ⟨_, nextBase_more hlt, ih (by omega) ⟨rfl, rfl, rfl, rfl, hquiet⟩ rfl⟩
    rw [show bases.drop i.toNat = a :: bases.drop (i.toNat + 1) from drop_of_romRead ha, witnessLoop_cons]
    exact (completesWithin_ipBase hnext hn hr hw hphase ha).mono (by omega)

/-! ### Decomposition -/

/-- From any point of the decomposition: the halvings left give what `decomposeLoop` gives from there, and the witness
loop answers (42_miller_rabin_test.md R80) within its `66 * 7 + 1` steps. -/
theorem completesWithin_ipDecomp {s : State} (hn : PassedTrialDivision s.cx) (hphase : s.phase = .ipDecomp)
    (hquiet : s.rspValid = false) (hprod : s.d.toNat * 2 ^ s.r.toNat + 1 = s.cx.toNat) {k : Nat}
    (hk : s.d.toNat < 2 ^ k) :
    CompletesWithin (64 - s.r.toNat + (66 * 7 + 1))
      (verdictWord (witnessLoop s.cx (decomposeLoop k s.d s.r.toNat).1 (decomposeLoop k s.d s.r.toNat).2 bases))
      s := by
  have h41 : 41 ≤ s.cx.toNat := hn.1
  induction k generalizing s with
  | zero =>
    have hd : s.d.toNat = 0 := by omega
    rw [hd] at hprod
    omega
  | succ k ih =>
    have hstep := controllerStep_ipDecomp (s := dropSample s) hphase
    rw [decomposeLoop]
    by_cases hlow : lowBit s.d = true
    · rw [if_pos hlow]
      have hbits : bitlen s.d + s.r.toNat ≤ 64 := bitlen_add_le (by omega) (by omega)
      have hdec := decomposed_of_lowBit hn hlow hprod
      have hloop := completesWithin_witnessLoop (k := 6) (i := 0) hn.ne_zero hdec.2.1 hbits rfl
        (s := { dropSample s with bi := 0, phase := .ipBase }) ⟨rfl, rfl, rfl, rfl, hquiet⟩ rfl
      exact (CompletesWithin.of_controllerStep (by simp [hphase]) hquiet
        (hstep.trans (stepIpDecomp_odd hlow)) hloop).mono (by omega)
    · rw [if_neg hlow]
      have hlow' : lowBit s.d = false := by simpa using hlow
      have hr := halvings_lt_63 hn hlow' hprod
      have hr1 : (s.r + 1).toNat = s.r.toNat + 1 := by bv_omega
      have hhalf : (s.d >>> 1).toNat < 2 ^ k := by
        rw [toNat_ushiftRight_one]
        omega
      have hprod' : (s.d >>> 1).toNat * 2 ^ (s.r + 1).toNat + 1 = s.cx.toNat := by
        rw [halving_keeps_product hlow' hr, hprod]
      have hrest := ih (s := { dropSample s with d := s.d >>> 1, r := s.r + 1 }) hn hphase hquiet hprod'
        hhalf h41
      rw [← hr1]
      exact (CompletesWithin.of_controllerStep (by simp [hphase]) hquiet
        (hstep.trans (stepIpDecomp_even hlow hr)) hrest).mono (by dsimp only; omega)

/-- The whole decomposition, from the state trial division leaves (42_miller_rabin_test.md R79). -/
theorem completesWithin_decompose {n : Word} (hn : PassedTrialDivision n) {s : State} (hphase : s.phase = .ipDecomp)
    (hcx : s.cx = n) (hd : s.d = n - 1) (hr : s.r = 0) (hquiet : s.rspValid = false) :
    CompletesWithin (64 + (66 * 7 + 1))
      (verdictWord (witnessLoop n (decompose n).1 (decompose n).2 bases)) s := by
  subst hcx
  have hr0 : s.r.toNat = 0 := by rw [hr]; rfl
  have hprod : s.d.toNat * 2 ^ s.r.toNat + 1 = s.cx.toNat := by
    have h41 : 41 ≤ s.cx.toNat := hn.1
    rw [hr0, pow_zero, mul_one, hd]
    bv_omega
  have hdec := completesWithin_ipDecomp hn hphase hquiet hprod s.d.isLt
  rw [hr0, hd] at hdec
  exact hdec

/-! ### Trial division and the range check -/

theorem trialDivision_cons_getD (n p : Word) (ps : List Word) (w : Bool) :
    (trialDivision n (p :: ps)).getD w = if trialRem n p = 0 then n == p else (trialDivision n ps).getD w := by
  rw [trialDivision]
  split_ifs <;> rfl

section
variable {B : Nat} {w : Bool} {s : State} (hphase : s.phase = .ipTrial) (hquiet : s.rspValid = false)
include hphase hquiet

/-- Trial division by the table entry at `PI`: it decides, or the state after the step does. -/
theorem completesWithin_trialEntry (hpi : s.pi.toNat ≤ 11)
    (hrest : ∀ p, romRead .smallPrime s.pi.toNat = some p → trialRem s.cx p ≠ 0 →
      CompletesWithin B (verdictWord ((trialDivision s.cx (smallPrimes.drop (s.pi.toNat + 1))).getD w))
        (if s.pi = 11 then { dropSample s with d := s.cx - 1, r := 0, phase := .ipDecomp }
          else { dropSample s with pi := s.pi + 1 })) :
    CompletesWithin (1 + B) (verdictWord ((trialDivision s.cx (smallPrimes.drop s.pi.toNat)).getD w)) s := by
  have hbusy : s.phase ≠ .idle := by simp [hphase]
  obtain ⟨p, hp⟩ := exists_romRead_eq_some (t := .smallPrime) (Nat.lt_succ_of_le hpi)
  have hstep := (controllerStep_ipTrial (s := dropSample s) hphase).trans (stepIpTrial_of_romRead hp)
  rw [show smallPrimes.drop s.pi.toNat = p :: smallPrimes.drop (s.pi.toNat + 1) from drop_of_romRead hp,
    trialDivision_cons_getD]
  by_cases hdvd : trialRem s.cx p = 0
  · rw [if_pos hdvd]
    exact .of_controllerStep hbusy hquiet (hstep.trans (if_pos hdvd)) (completesWithin_complete B _ _)
  · rw [if_neg hdvd]
    refine .of_controllerStep hbusy hquiet ((hstep.trans (if_neg hdvd)).trans ?_) (hrest p hp hdvd)
    exact (apply_ite Host.Outcome.next _ _ _).symm

/-- Trial division from table entry `PI` on, `k + 1` entries of the table: the first entry that divides the candidate
decides, and else the decomposition goes on (42_miller_rabin_test.md R79). -/
theorem completesWithin_ipTrial {k : Nat} (hk : s.pi.toNat + k = 11)
    (hbefore : ∀ p ∈ smallPrimes.take s.pi.toNat, s.cx.toNat % p.toNat ≠ 0)
    (hdecomp : (∀ p ∈ smallPrimes, s.cx.toNat % p.toNat ≠ 0) → ∀ t : State, t.phase = .ipDecomp → t.cx = s.cx →
      t.d = s.cx - 1 → t.r = 0 → t.rspValid = false → CompletesWithin B (verdictWord w) t) :
    CompletesWithin (k + 1 + B) (verdictWord ((trialDivision s.cx (smallPrimes.drop s.pi.toNat)).getD w)) s := by
  induction k generalizing s with
  | zero =>
    have h11 : s.pi = 11 := by bv_omega
    refine (completesWithin_trialEntry (B := B) hphase hquiet (by omega) fun p hp hrem => ?_).mono (by omega)
    have hall : ∀ q ∈ smallPrimes, s.cx.toNat % q.toNat ≠ 0 := by
      have htake := forall_take_succ hp hbefore hrem
      rwa [h11] at htake
    rw [if_pos h11, h11]
    exact hdecomp hall _ rfl rfl rfl rfl hquiet
  | succ k ih =>
    have h11 : s.pi ≠ 11 := by bv_omega
    have hpi1 : (s.pi + 1).toNat = s.pi.toNat + 1 := by bv_omega
    refine (completesWithin_trialEntry (B := k + 1 + B) hphase hquiet (by omega) fun p hp hrem => ?_).mono (by omega)
    rw [if_neg h11, ← hpi1]
    refine ih (s := { dropSample s with pi := s.pi + 1 }) hphase hquiet (by dsimp only; omega) ?_ hdecomp
    simp only [hpi1]
    exact forall_take_succ hp hbefore hrem

end

theorem verdict_eq_getD {n : Word} (h2 : ¬ n < 2) :
    verdict n = (trialDivision n smallPrimes).getD (witnessLoop n (decompose n).1 (decompose n).2 bases) := by
  rw [verdict, if_neg h2]
  cases trialDivision n smallPrimes <;> rfl

/-- `is_probable_prime` from its accept on answers the verdict (42_miller_rabin_test.md R90). -/
theorem completesWithin_ipRange {s : State} (hphase : s.phase = .ipRange) (hquiet : s.rspValid = false) :
    CompletesWithin 546 (verdictWord (verdict s.cx)) s := by
  have hbusy : s.phase ≠ .idle := by simp [hphase]
  have hstep := controllerStep_ipRange (s := dropSample s) hphase
  by_cases h2 : s.cx < 2
  · have hverdict : verdict s.cx = false := if_pos h2
    rw [hverdict]
    exact (CompletesWithin.of_controllerStep hbusy hquiet (hstep.trans (if_pos h2))
      (completesWithin_complete 0 _ _)).mono (by omega)
  · rw [verdict_eq_getD h2]
    have h2' : 2 ≤ s.cx.toNat := by bv_omega
    have htrial := completesWithin_ipTrial (s := { dropSample s with pi := 0, phase := .ipTrial }) (k := 11)
      rfl hquiet rfl (by simp) fun hall _ hphase hcx hd hr hquiet =>
        completesWithin_decompose (passedTrialDivision_of_forall h2' hall) hphase hcx hd hr hquiet
    exact (CompletesWithin.of_controllerStep hbusy hquiet (hstep.trans (if_neg h2)) htrial).mono (by omega)

end Sys2Proof.Machine

/-! PROOFS. A line of a host program: the accept, the block's run to the end of the command, and the host's read
(30_encoding.md R53). -/

namespace Sys2Proof.Machine

/-! ### The response of each command -/

/-- The block ends the command in progress with the response `r`, after at most `n` steps on released ports. -/
def RespondsWithin (n : Nat) (r : BitVec 2 × Option Word) (s : State) : Prop :=
  ∃ k ≤ n, ∃ u, BusyRun k s u ∧ u.phase = .idle ∧ u.rspValid = true ∧ (u.rspErr, hostReadData u) = r

theorem CompletesWithin.responds {n : Nat} {v : Word} {s : State} (h : CompletesWithin n v s)
    (hin : s.inputs = []) : RespondsWithin n (0, some v) s := by
  obtain ⟨k, hk, u, hrun, hphase, hvalid, herr, hdata⟩ := h (by simp [NoResetFor, hin])
  exact ⟨k, hk, u, hrun, hphase, hvalid, by simp [hostReadData, hvalid, herr, hdata]⟩

theorem raiseFault_responds (c : FaultCode) (s : State) :
    RespondsWithin 0 (faultCodeBits c, none) (raiseFault c s) :=
  ⟨0, le_rfl, _, .refl _, rfl, rfl, by cases c <;> rfl⟩

/-- A command accepted by an idle block ends with its response, within its number of steps
(30_encoding.md R50, 70_reset_and_hazards.md R119). -/
theorem exec_responds {i : Instr} {s t : State} (hidle : s.phase = .idle) (hin : s.inputs = [])
    (h : exec i s = .next t) : RespondsWithin (commandSteps i) (commandResponse i) t := by
  rw [exec_idle hidle] at h
  cases h
  cases i with
  | mulMod a b m =>
    by_cases hm : m = 0
    · subst hm
      exact raiseFault_responds .modulusZero _
    · have hvalue : mulmod a b m = BitVec.ofNat 64 (a.toNat * b.toNat % m.toNat) := by
        rw [← mulmod_toNat hm, BitVec.ofNat_toNat, BitVec.setWidth_eq]
      simp only [withModulus_ne hm, commandSteps, commandResponse, if_neg hm, ← hvalue]
      exact (completesWithin_mmExec (s := gotoPhase .mmExec (latchCommand 0 a b m s)) rfl hm rfl).responds hin
  | powMod a e m =>
    by_cases hm : m = 0
    · subst hm
      exact raiseFault_responds .modulusZero _
    · have hvalue : powmod a e m = BitVec.ofNat 64 (a.toNat ^ e.toNat % m.toNat) := by
        rw [← powmod_toNat hm, BitVec.ofNat_toNat, BitVec.setWidth_eq]
      simp only [withModulus_ne hm, commandSteps, commandResponse, if_neg hm, ← hvalue]
      exact (completesWithin_pmLoop (s := gotoPhase .pmLoop (loadMexp a e m (latchCommand 1 a e m s)))
        rfl hm rfl).responds hin
  | isProbablePrime n y z =>
    exact (completesWithin_ipRange (s := gotoPhase .ipRange (latchCommand 2 n y z s)) rfl rfl).responds hin
  | reserved x y z => exact raiseFault_responds .illegalCommand _

/-! ### One line -/

/-- An idle block takes the line's command, and after the block's busy run the host reads its end. -/
theorem hostRun_line {h : HostState} {line : HostLine} {rest : List HostLine} {w : CommandWord} {t u : State} {k : Nat}
    (hidle : h.block.phase = .idle) (hwait : h.waiting = none) (htodo : h.todo = line :: rest)
    (hword : lineWord h.vars line.command = some w) (hexec : exec (decode w) { h.block with inputs := [] } = .next t)
    (hrun : BusyRun k t u) (hvalid : u.rspValid = true) :
    hostRun (k + 2) h = hostReads line.bind { h with block := u, todo := rest, waiting := some line.bind } := by
  have hoffer : hostStep h = .next { h with block := t, todo := rest, waiting := some line.bind } := by
    rw [hostStep_offers (busy_eq_false_iff.2 hidle) hwait htodo hword]
    exact withBlockStep_next ((step_offered hidle w).trans hexec)
  have hin : t.inputs = [] := exec_idle_inputs (s := { h.block with inputs := [] }) hidle hexec
  have hquiet : ∀ j < k, ∃ v, run j t = .next v ∧ v.rspValid = false := by
    intro j hj
    obtain ⟨v, hv, -, hv'⟩ := hrun.before j hj
    exact ⟨v, hv, hv'⟩
  have hwaits : hostRun (k + 1) h = .next { h with block := u, todo := rest, waiting := some line.bind } := by
    rw [hostRun_succ_of_step hoffer]
    exact hostRun_waits rfl hin hrun.run_eq hquiet
  rw [hostRun_succ hwaits]
  exact hostStep_reads rfl hvalid

/-- The host's read, unless it would bind a variable to no value: it records the response, and only a binding changes the
variables. -/
theorem hostReads_next {h : HostState} {bind : Option VarName} (hok : bind = none ∨ hostReadData h.block ≠ none) :
    ∃ h', hostReads bind h = .next h' ∧ h'.block = h.block ∧ h'.waiting = none ∧ h'.todo = h.todo ∧
      h'.responses = (h.block.rspErr, hostReadData h.block) :: h.responses ∧
      (bind = none → h'.vars = h.vars) ∧
      ∀ name, bind = some name →
        lookupVar h'.vars name = hostReadData h.block ∧
        ∀ other, other ≠ name → lookupVar h'.vars other = lookupVar h.vars other := by
  cases bind with
  | none => exact ⟨_, hostReads_unbound h, rfl, rfl, rfl, rfl, fun _ => rfl, by simp⟩
  | some name =>
    obtain ⟨v, hv⟩ := Option.ne_none_iff_exists'.1 (hok.resolve_left (Option.some_ne_none name))
    refine ⟨_, hostReads_value name hv, rfl, rfl, rfl, by rw [hv], by simp, ?_⟩
    rintro _ ⟨⟩
    exact ⟨(lookupVar_cons_self name v h.vars).trans hv.symm, fun other hne => lookupVar_cons_ne hne v h.vars⟩

/-- A command without a result ends at its accept (60_exceptions.md R98). -/
theorem commandSteps_of_no_result {i : Instr} (h : (commandResponse i).2 = none) : commandSteps i = 0 := by
  by_cases hdom : i.InDomain
  · exact absurd h (commandResponse_inDomain hdom).2
  · exact (commandResponse_outside hdom).2.2

/-- Settles O57: accept, the block's own run to the command's response, and the host's read of it. -/
theorem hostLineBindsItsResult : Obligations.HostLineBindsItsResult := by
  unfold Obligations.HostLineBindsItsResult
  intro h line rest w hidle hwait htodo hword
  obtain ⟨t, ht⟩ := exec_progress (s := { h.block with inputs := [] }) hidle (decode w)
  obtain ⟨k, hk, u, hrun, hphase, hvalid, hresponse⟩ :=
    exec_responds (s := { h.block with inputs := [] }) hidle rfl ht
  have hline := hostRun_line hidle hwait htodo hword ht hrun hvalid
  rw [← hresponse]
  refine ⟨fun hok => ?_, fun hbind hnone => ?_⟩
  · obtain ⟨h', hread, hblock, hwait', htodo', hresponses, hvars⟩ :=
      hostReads_next (h := { h with block := u, todo := rest, waiting := some line.bind }) hok
    exact ⟨k + 2, by omega, h', hline.trans hread, hblock ▸ hphase, hwait', htodo', hresponses, hvars⟩
  · obtain ⟨name, hname⟩ := Option.ne_none_iff_exists'.1 hbind
    have hsteps : commandSteps (decode w) = 0 := commandSteps_of_no_result (hresponse ▸ hnone)
    obtain rfl : k = 0 := by omega
    rw [hname] at hline
    exact hline.trans (hostReads_refused name hnone)

end Sys2Proof.Machine

/-! PROOFS. The widening multiplier (40_widening_multiplier.md): the laws of `mulmod`, and every permitted realisation of
the product and of the reduction has the integer value of the stage it stands for. -/

namespace Sys2Proof.Machine

/-! ### `mulmod` over the integers -/

/-- Settles O23: two 64-bit factors have a product below `2^128`. -/
theorem productNeverOverflows : Obligations.ProductNeverOverflows := product_toNat

/-- The reduce stage over the integers (40_widening_multiplier.md R57). -/
theorem reduce_toNat (p : Product) {m : Word} (hm : m ≠ 0) : (reduce p m).toNat = p.toNat % m.toNat := by
  have hmod : p.toNat % m.toNat < m.toNat := Nat.mod_lt _ (by bv_omega)
  rw [reduce, BitVec.toNat_setWidth, BitVec.toNat_umod, BitVec.toNat_setWidth_of_le (by decide),
    Nat.mod_eq_of_lt (by omega)]

theorem mulmod_comm (a b m : Word) : mulmod a b m = mulmod b a m := by
  rw [mulmod, mulmod, product, product, BitVec.mul_comm]

theorem mulmod_umod_umod {m : Word} (hm : m ≠ 0) (a b : Word) : mulmod (a % m) (b % m) m = mulmod a b m := by
  apply BitVec.eq_of_toNat_eq
  rw [mulmod_toNat hm, mulmod_toNat hm, BitVec.toNat_umod, BitVec.toNat_umod, ← Nat.mul_mod]

theorem mulmod_modulus_one (a b : Word) : mulmod a b 1 = 0 := by
  apply BitVec.eq_of_toNat_eq
  rw [mulmod_toNat (by decide)]
  exact Nat.mod_one _

theorem zero_mulmod {m : Word} (hm : m ≠ 0) (b : Word) : mulmod 0 b m = 0 := by
  apply BitVec.eq_of_toNat_eq
  rw [mulmod_toNat hm]
  simp

theorem one_mulmod {m : Word} (hm : m ≠ 0) (b : Word) : mulmod 1 b m = b % m := by
  apply BitVec.eq_of_toNat_eq
  rw [mulmod_toNat hm, BitVec.toNat_umod]
  simp

/-- Settles O22: the laws follow from the integer value; the two separating inputs are evaluated. -/
theorem mulmodLaws : Obligations.MulmodLaws := by
  unfold Obligations.MulmodLaws
  refine ⟨fun a b m hm => ?_, by decide, by decide⟩
  exact ⟨mulmod_toNat hm a b, mulmod_lt hm a b, mulmod_comm a b m, (mulmod_umod_umod hm a b).symm,
    mulmod_modulus_one a b, zero_mulmod hm b, one_mulmod hm b⟩

/-! ### The command `mul_mod` -/

/-- The step of `MM_EXEC` without reset (40_widening_multiplier.md R60). -/
theorem step_mmExec {s : State} (hphase : s.phase = .mmExec) (hcz : s.cz ≠ 0) (hrst : (sampleOf s).rst = false) :
    step s = .next (complete (mulmod s.cx s.cy s.cz) (dropSample s)) := by
  rw [step_busy hrst (by simp [busy, hphase])]
  simp only [controllerStep, dropSample_phase, hphase]
  exact if_neg hcz

/-- Settles O17: accept goes to `MM_EXEC`, and the one step there completes with the product modulo `m`. -/
theorem mulModAnswersTheProductModM : Obligations.MulModAnswersTheProductModM := by
  unfold Obligations.MulModAnswersTheProductModM
  refine ⟨fun a b m s hidle hm hrst => ?_, fun s hphase hcz hrst => step_mmExec hphase hcz hrst⟩
  have hsample : (sampleOf s).rst = false := hrst.sample
  exact ⟨_, _, mulmod a b m, mulModIsAccepted a b m s hidle hm, rfl,
    run_one.trans (step_mmExec rfl hm hsample), mulmod_toNat hm a b, by simp [complete, dropSample, hidle]⟩

/-! ### The realisations of the product -/

theorem toNat_extractLow32 (v : Word) : (v.extractLsb' 0 32).toNat = v.toNat % 2 ^ 32 := by
  rw [BitVec.extractLsb'_toNat, Nat.shiftRight_zero]

theorem toNat_extractHigh32 (v : Word) : (v.extractLsb' 32 32).toNat = v.toNat / 2 ^ 32 := by
  rw [BitVec.extractLsb'_toNat, Nat.shiftRight_eq_div_pow]
  omega

/-- The recipe's `lo32` (40_widening_multiplier.md R63). -/
theorem toNat_low32 (v : Word) : ((v.extractLsb' 0 32).setWidth 64).toNat = v.toNat % 2 ^ 32 :=
  (BitVec.toNat_setWidth_of_le (by decide)).trans (toNat_extractLow32 v)

/-- The recipe's `hi32` (40_widening_multiplier.md R63). -/
theorem toNat_high32 (v : Word) : ((v.extractLsb' 32 32).setWidth 64).toNat = v.toNat / 2 ^ 32 :=
  (BitVec.toNat_setWidth_of_le (by decide)).trans (toNat_extractHigh32 v)

/-- The room a partial product leaves in 64 bits (40_widening_multiplier.md R63). -/
theorem partialProduct_le {x y : Nat} (hx : x < 2 ^ 32) (hy : y < 2 ^ 32) :
    x * y ≤ (2 ^ 32 - 1) * (2 ^ 32 - 1) :=
  Nat.mul_le_mul (by omega) (by omega)

theorem partialProduct_toNat (x y : BitVec 32) :
    (x.setWidth 64 * y.setWidth 64).toNat = x.toNat * y.toNat := by
  have hle := partialProduct_le x.isLt y.isLt
  rw [BitVec.toNat_mul, BitVec.toNat_setWidth_of_le (by decide), BitVec.toNat_setWidth_of_le (by decide)]
  exact Nat.mod_eq_of_lt (by omega)

theorem append_toNat {i j : Nat} (u : BitVec i) (v : BitVec j) : (u ++ v).toNat = u.toNat * 2 ^ j + v.toNat := by
  rw [BitVec.toNat_append, ← Nat.shiftLeft_add_eq_or_of_lt v.isLt, Nat.shiftLeft_eq]

/-- The middle sum and its carries put the four partial products together (40_widening_multiplier.md R63), and the
high word does not overflow. -/
theorem partialProducts_sum {ll lh hl hh : Nat} (hll : ll ≤ (2 ^ 32 - 1) * (2 ^ 32 - 1))
    (hlh : lh ≤ (2 ^ 32 - 1) * (2 ^ 32 - 1)) (hhl : hl ≤ (2 ^ 32 - 1) * (2 ^ 32 - 1))
    (hhh : hh ≤ (2 ^ 32 - 1) * (2 ^ 32 - 1)) :
    let mid := (ll / 2 ^ 32 + lh % 2 ^ 32 + hl % 2 ^ 32) % 2 ^ 64
    ((hh + lh / 2 ^ 32 + hl / 2 ^ 32 + mid / 2 ^ 32) % 2 ^ 64 * 2 ^ 32 + mid % 2 ^ 32) * 2 ^ 32 + ll % 2 ^ 32 =
      hh * 2 ^ 64 + (lh + hl) * 2 ^ 32 + ll := by
  omega

theorem productHalves_toNat (a b : Word) : (productHalves a b).toNat = a.toNat * b.toNat := by
  have low_lt (v : Word) : v.toNat % 2 ^ 32 < 2 ^ 32 := Nat.mod_lt _ (by decide)
  have high_lt (v : Word) : v.toNat / 2 ^ 32 < 2 ^ 32 := by omega
  simp only [productHalves, append_toNat, BitVec.toNat_add, partialProduct_toNat, toNat_low32, toNat_high32,
    toNat_extractLow32, toNat_extractHigh32, Nat.mod_add_mod]
  calc
    _ = a.toNat / 2 ^ 32 * (b.toNat / 2 ^ 32) * 2 ^ 64 +
        (a.toNat % 2 ^ 32 * (b.toNat / 2 ^ 32) + a.toNat / 2 ^ 32 * (b.toNat % 2 ^ 32)) * 2 ^ 32 +
        a.toNat % 2 ^ 32 * (b.toNat % 2 ^ 32) :=
      partialProducts_sum (partialProduct_le (low_lt a) (low_lt b)) (partialProduct_le (low_lt a) (high_lt b))
        (partialProduct_le (high_lt a) (low_lt b)) (partialProduct_le (high_lt a) (high_lt b))
    _ = (a.toNat / 2 ^ 32 * 2 ^ 32 + a.toNat % 2 ^ 32) * (b.toNat / 2 ^ 32 * 2 ^ 32 + b.toNat % 2 ^ 32) := by ring
    _ = a.toNat * b.toNat := by rw [Nat.div_add_mod', Nat.div_add_mod']

/-- Settles O24: the halves put together are the product, and the four partial products add up to it. -/
theorem productRealisationsAgree : Obligations.ProductRealisationsAgree := by
  unfold Obligations.ProductRealisationsAgree
  intro c a b
  cases c with
  | doubleWidth => rfl
  | highLow => exact BitVec.extractLsb'_append_extractLsb'
  | halves => exact BitVec.eq_of_toNat_eq ((productHalves_toNat a b).trans (product_toNat a b).symm)

/-! ### Restoring division -/

/-- Shifting one bit into a partial remainder below `2^64` loses nothing in 65 bits. -/
theorem shiftIn_toNat {rem : BitVec 65} (hrem : rem.toNat < 2 ^ 64) (b : Bool) :
    ((rem <<< 1) ||| (BitVec.ofBool b).setWidth 65).toNat = 2 * rem.toNat + b.toNat := by
  have hshift : rem.toNat <<< 1 % 2 ^ 65 = rem.toNat <<< 1 := by
    rw [Nat.shiftLeft_eq]
    omega
  rw [BitVec.toNat_or, BitVec.toNat_shiftLeft, BitVec.toNat_setWidth_of_le (by decide), BitVec.toNat_ofBool,
    hshift, ← Nat.shiftLeft_add_eq_or_of_lt (Bool.toNat_lt b), Nat.shiftLeft_eq, pow_one, mul_comm]

/-- The conditional subtraction reduces a value below `2 * m`. -/
theorem restoringSubtract_toNat {m : Word} {next : BitVec 65} (hnext : next.toNat < 2 * m.toNat) :
    (if m.setWidth 65 ≤ next then next - m.setWidth 65 else next).toNat = next.toNat % m.toNat := by
  have hm : (m.setWidth 65).toNat = m.toNat := BitVec.toNat_setWidth_of_le (by decide)
  split_ifs with hle
  · have hle' : m.toNat ≤ next.toNat := hm ▸ BitVec.le_def.1 hle
    rw [BitVec.toNat_sub_of_le hle, hm, Nat.mod_eq_sub_mod hle', Nat.mod_eq_of_lt (by omega)]
  · rw [BitVec.le_def, hm, not_le] at hle
    exact (Nat.mod_eq_of_lt hle).symm

/-- The low `k` bits of `P`, the highest of them first, appended to the partial remainder. -/
theorem restoringLoop_toNat (p : Product) {m : Word} {k : Nat} {rem : BitVec 65} (hrem : rem.toNat < m.toNat) :
    (restoringLoop p m k rem).toNat = (rem.toNat * 2 ^ k + p.toNat % 2 ^ k) % m.toNat := by
  induction k generalizing rem with
  | zero => simp [restoringLoop, Nat.mod_one, Nat.mod_eq_of_lt hrem]
  | succ k ih =>
    have hbit : (p.getLsbD k).toNat = p.toNat / 2 ^ k % 2 := Nat.toNat_testBit _ _
    have hnext := shiftIn_toNat (rem := rem) (by omega) (p.getLsbD k)
    have hsub := restoringSubtract_toNat (m := m) (hnext.trans_lt (by omega))
    have happend : (2 * rem.toNat + p.toNat / 2 ^ k % 2) * 2 ^ k + p.toNat % 2 ^ k =
        rem.toNat * 2 ^ (k + 1) + p.toNat % 2 ^ (k + 1) := by
      rw [Nat.mod_pow_succ]
      ring
    rw [restoringLoop, ih (hsub ▸ Nat.mod_lt _ (by omega)), hsub, hnext, hbit, Nat.add_mod, Nat.mod_mul_mod,
      ← Nat.add_mod, happend]

theorem reduceRestoring_toNat (p : Product) {m : Word} (hm : m ≠ 0) :
    (reduceRestoring p m).toNat = p.toNat % m.toNat := by
  have hpos : 0 < m.toNat := by bv_omega
  have hmod : p.toNat % m.toNat < m.toNat := Nat.mod_lt _ hpos
  have hloop : (restoringLoop p m 128 0).toNat = p.toNat % m.toNat := by
    rw [restoringLoop_toNat p (rem := 0) hpos, Nat.mod_eq_of_lt p.isLt]
    simp
  rw [reduceRestoring, BitVec.toNat_setWidth, hloop, Nat.mod_eq_of_lt (by omega)]

/-- Settles O25: the loop's value is a remainder modulo `m`, of `P` itself when it starts from 0 with all 128 bits. -/
theorem restoringDivisionIsExact : Obligations.RestoringDivisionIsExact := by
  unfold Obligations.RestoringDivisionIsExact
  intro p m hm
  refine ⟨reduceRestoring_toNat p hm, fun j rem hrem => ?_⟩
  have hwide : (m.setWidth 65).toNat = m.toNat := BitVec.toNat_setWidth_of_le (by decide)
  rw [BitVec.lt_def, hwide] at hrem ⊢
  rw [restoringLoop_toNat p hrem]
  exact Nat.mod_lt _ (by omega)

/-! ### The realisations of `mulmod` -/

theorem reduceBy_eq_reduce (c : ReduceRealisation) (p : Product) {m : Word} (hm : m ≠ 0) :
    reduceBy c p m = reduce p m := by
  cases c with
  | remainder => rfl
  | restoring => exact BitVec.eq_of_toNat_eq ((reduceRestoring_toNat p hm).trans (reduce_toNat p hm).symm)

/-- Settles O26: each stage has the same value under every realisation. -/
theorem mulmodIndependentOfRealisation : Obligations.MulmodIndependentOfRealisation := by
  unfold Obligations.MulmodIndependentOfRealisation
  intro c a b m hm
  rw [mulmodBy, productRealisationsAgree, reduceBy_eq_reduce _ _ hm, mulmod]

end Sys2Proof.Machine

/-! PROOFS. The modular exponentiator (41_modular_exponentiator.md): the laws of `powmod`, the iteration `mexp_iter`, and
the command `pow_mod` from its accept to its response. -/

namespace Sys2Proof.Machine

/-! ### `powmod` over the integers -/

theorem powmod_lt {m : Word} (hm : m ≠ 0) (a e : Word) : powmod a e m < m := by
  rw [BitVec.lt_def, powmod_toNat hm]
  exact Nat.mod_lt _ (by bv_omega)

/-- Settles O27: the value over the integers, which a remainder by `m` keeps below `m`. -/
theorem powmodIsExact : Obligations.PowmodIsExact :=
  fun a e _ hm => ⟨powmod_toNat hm a e, powmod_lt hm a e⟩

theorem powmod_umod {m : Word} (hm : m ≠ 0) (a e : Word) : powmod (a % m) e m = powmod a e m := by
  apply BitVec.eq_of_toNat_eq
  rw [powmod_toNat hm, powmod_toNat hm, BitVec.toNat_umod, ← Nat.pow_mod]

theorem powmod_add {m : Word} (hm : m ≠ 0) (a : Word) {e f : Word} (hsum : e.toNat + f.toNat < 2 ^ 64) :
    powmod a (e + f) m = mulmod (powmod a e m) (powmod a f m) m := by
  apply BitVec.eq_of_toNat_eq
  rw [powmod_toNat hm, mulmod_toNat hm, powmod_toNat hm, powmod_toNat hm, BitVec.toNat_add_of_lt hsum, pow_add,
    ← Nat.mul_mod]

/-- Settles O28: both laws hold of the powers over the integers. -/
theorem powmodExponentLaw : Obligations.PowmodExponentLaw :=
  fun a e _ _ hm => ⟨(powmod_umod hm a e).symm, powmod_add hm a⟩

theorem powmod_exponent_zero {m : Word} (hm : m ≠ 0) (a : Word) : powmod a 0 m = if m = 1 then 0 else 1 := by
  rw [powmod, powmodLoop_zero, one_umod hm]

theorem powmod_modulus_one (a e : Word) : powmod a e 1 = 0 := by
  apply BitVec.eq_of_toNat_eq
  rw [powmod_toNat (by decide)]
  exact Nat.mod_one _

/-- Settles O29: exponent 0 makes no pass of the loop, and every remainder by 1 is 0. -/
theorem powmodCornerCases : Obligations.PowmodCornerCases :=
  ⟨fun a _ hm => powmod_exponent_zero hm a, powmod_modulus_one⟩

/-! ### Iterations of the exponentiator -/

theorem iterate_mexpIter_xm (k : Nat) (s : State) : (mexpIter^[k] s).xm = s.xm := by
  induction k with
  | zero => rfl
  | succ k ih => rw [Function.iterate_succ_apply', mexpIter_xm, ih]

theorem iterate_mexpIter_xe (k : Nat) (s : State) : (mexpIter^[k] s).xe.toNat = s.xe.toNat / 2 ^ k := by
  induction k with
  | zero => simp
  | succ k ih =>
    rw [Function.iterate_succ_apply', mexpIter_xe, toNat_ushiftRight_one, ih, Nat.div_div_eq_div_mul, pow_succ]

/-- The base before it is known to be reduced: no iteration (`k = 0`) leaves it as it is. -/
theorem iterate_mexpIter_xb_modEq {s : State} (hm : s.xm ≠ 0) (k : Nat) :
    (mexpIter^[k] s).xb.toNat ≡ s.xb.toNat ^ 2 ^ k [MOD s.xm.toNat] := by
  induction k with
  | zero => simp [Nat.ModEq.refl]
  | succ k ih =>
    rw [Function.iterate_succ_apply', mexpIter_xb, iterate_mexpIter_xm, mulmod_toNat hm, pow_succ, pow_mul, pow_two]
    exact (Nat.mod_modEq _ _).trans (ih.mul ih)

theorem iterate_mexpIter_xb_lt {s : State} (hm : s.xm ≠ 0) {k : Nat} (hk : 0 < k) : (mexpIter^[k] s).xb < s.xm := by
  obtain ⟨j, rfl⟩ := Nat.exists_eq_add_one.2 hk
  rw [Function.iterate_succ_apply', mexpIter_xb, iterate_mexpIter_xm]
  exact mulmod_lt hm _ _

theorem iterate_mexpIter_xb {s : State} (hm : s.xm ≠ 0) {k : Nat} (hk : 0 < k) :
    (mexpIter^[k] s).xb.toNat = s.xb.toNat ^ 2 ^ k % s.xm.toNat := by
  rw [← iterate_mexpIter_xb_modEq hm k, Nat.mod_eq_of_lt (iterate_mexpIter_xb_lt hm hk)]

/-- The low `k + 1` bits of the exponent are its lowest bit and the low `k` bits of its half, so that one pass of
square-and-multiply on them is the first iteration. -/
theorem iterate_mexpIter_xr {s : State} (hm : s.xm ≠ 0) (hr : s.xr < s.xm) (k : Nat) :
    (mexpIter^[k] s).xr.toNat = s.xr.toNat * s.xb.toNat ^ (s.xe.toNat % 2 ^ k) % s.xm.toNat := by
  induction k generalizing s with
  | zero => simp [Nat.mod_one, Nat.mod_eq_of_lt (BitVec.lt_def.1 hr)]
  | succ k ih =>
    have hhalf : s.xe.toNat / 2 % 2 ^ k = s.xe.toNat % 2 ^ (k + 1) / 2 := by
      rw [pow_succ', Nat.mod_mul_right_div_self]
    have hlow : s.xe.toNat % 2 ^ (k + 1) % 2 = s.xe.toNat % 2 :=
      Nat.mod_mod_of_dvd _ (dvd_pow_self 2 k.succ_ne_zero)
    rw [Function.iterate_succ_apply, ih (s := mexpIter s) hm (mexpIter_xr_lt hm hr), mexpIter_xr, mexpIter_xb,
      mexpIter_xe, mexpIter_xm, mulmodIf_toNat hm, mulmod_toNat hm, toNat_ushiftRight_one, hhalf, ← hlow]
    exact squareMultiply_modEq _ _ _ _

/-- Settles O30: each register by induction on the iterations; on one multiplier the iteration is the same by
definition, since the squaring reads neither `XR` nor what the multiplication wrote. -/
theorem iterationsOfTheExponentiator : Obligations.IterationsOfTheExponentiator := by
  refine ⟨fun k s hm hr => ?_, fun s => rfl⟩
  exact ⟨iterate_mexpIter_xr hm hr k, fun hk => ⟨iterate_mexpIter_xb hm hk, iterate_mexpIter_xb_lt hm hk⟩,
    iterate_mexpIter_xe k s, iterate_mexpIter_xm k s⟩

/-! ### The step of `PM_LOOP` -/

theorem controllerStep_pmLoop {s : State} (hphase : s.phase = .pmLoop) :
    controllerStep s = mexpStep (fun t => complete t.xr t) s := by
  simp only [controllerStep, hphase, stepPmLoop]

theorem step_pmLoop {s : State} (hphase : s.phase = .pmLoop) (hrst : (sampleOf s).rst = false) :
    step s = mexpStep (fun t => complete t.xr t) (dropSample s) :=
  (step_busy hrst (by simp [busy, hphase])).trans (controllerStep_pmLoop hphase)

/-- Settles O31: the two branches of an exponentiation step. -/
theorem powModLoopStep : Obligations.PowModLoopStep := by
  intro s hphase hrst
  rw [step_pmLoop hphase hrst]
  exact ⟨fun he => mexpStep_done he, fun he hm => mexpStep_iter he hm⟩

/-! ### The command `pow_mod` -/

/-- The state accept leaves for `pow_mod a, e, m`. -/
def powModStarted (a e m : Word) (s : State) : State :=
  gotoPhase .pmLoop (loadMexp a e m (latchCommand 1 a e m s))

theorem exec_powMod {m : Word} (hm : m ≠ 0) (a e : Word) {s : State} (hidle : s.phase = .idle) :
    exec (.powMod a e m) s = .next (powModStarted a e m s) := by
  rw [exec_idle hidle]
  exact congrArg _ (withModulus_ne hm _ _)

/-- `PM_LOOP` is busy through its last step too, which completes with the value of the loop. -/
theorem busyRun_pmLoop {s : State} (hphase : s.phase = .pmLoop) (hm : s.xm ≠ 0) (hv : s.rspValid = false)
    (hreset : NoResetFor (bitlen s.xe + 1) s) :
    ∃ b, BusyRun (bitlen s.xe + 1) s
      (complete (powmodLoop s.xm 64 s.xr s.xb s.xe) (dropSample (powered 64 b s))) := by
  obtain ⟨b, hrun⟩ := busyRun_mexp (by decide) (fun _ => controllerStep_pmLoop) s.xe.isLt hphase hm hv
    (hreset.mono (by omega))
  have hphase' : (powered 64 b s).phase = .pmLoop := hphase
  have hrst : (sampleOf (powered 64 b s)).rst = false := (hreset.after rfl).sample
  have hlast := (step_pmLoop hphase' hrst).trans (mexpStep_done rfl)
  exact ⟨b, hrun.trans (.head (by simp [busy, hphase']) hv hlast (.refl _))⟩

/-- Settles O18: the busy run from the state accept leaves, whose end holds `powmod`. -/
theorem powModAnswersThePowerModM : Obligations.PowModAnswersThePowerModM := by
  intro a e m s hidle hm hreset
  obtain ⟨b, hrun⟩ := busyRun_pmLoop (s := powModStarted a e m s) rfl hm rfl hreset
  refine ⟨_, exec_powMod hm a e hidle, fun k hk => hrun.before k (Nat.lt_succ_of_le hk), ?_⟩
  refine ⟨_, powmod a e m, hrun.run_eq, powmod_toNat hm a e, ?_⟩
  simp [powered, powModStarted, powmod]

/-! ### How many times an exponentiation evaluates `mulmod` -/

theorem mulmodsInRun_one (s : State) : mulmodsInRun 1 s = mulmodsInStep s := by
  cases h : step s <;> simp [mulmodsInRun, h]

theorem mulmodsInRun_succ_of_step {k : Nat} {s t : State} (h : step s = .next t) :
    mulmodsInRun (k + 1) s = mulmodsInStep s + mulmodsInRun k t := by
  simp [mulmodsInRun, h]

/-- The bits of `e` are its lowest bit and the bits of its half, whose bit 63 is 0. -/
theorem popcount_eq_add (e : Word) : popcount e = (if lowBit e then 1 else 0) + popcount (e >>> 1) := by
  have hshift : (e >>> 1).getLsbD = e.getLsbD ∘ Nat.succ := by
    funext i
    rw [BitVec.getLsbD_ushiftRight, Nat.add_comm]
    rfl
  have hhigh : (e >>> 1).getLsbD 63 = false := by
    rw [hshift]
    exact BitVec.getLsbD_of_ge e 64 le_rfl
  have hhalf : popcount (e >>> 1) = (List.range 63).countP (e >>> 1).getLsbD := by
    rw [popcount, ← List.countP_eq_length_filter, List.range_succ, List.countP_append, List.countP_singleton, hhigh]
    rfl
  rw [hhalf, popcount, ← List.countP_eq_length_filter, List.range_succ_eq_map, List.countP_cons, List.countP_map,
    ← hshift, Nat.add_comm]
  rfl

theorem popcount_le (e : Word) : popcount e ≤ 64 :=
  (List.length_filter_le _ _).trans_eq List.length_range

theorem mexpMulmods_of_ne_zero {s : State} (he : s.xe ≠ 0) :
    mexpMulmods s = 1 + if lowBit s.xe then 1 else 0 := by
  rw [mexpMulmods, if_neg he]
  split_ifs <;> rfl

theorem bitlen_ne_zero {e : Word} (he : e ≠ 0) : bitlen e ≠ 0 := by
  rw [bitlen, if_neg he]
  exact Nat.succ_ne_zero _

/-- In a phase that steps by `mexpStep` and counts as it does, the run to the end of the exponentiation evaluates `mulmod`
once for each bit of the exponent, and once more for each bit that is 1 (41_modular_exponentiator.md R68). -/
theorem mulmodsInRun_mexp {p : Phase} {done : State → State} (hp : p ≠ .idle)
    (hstep : ∀ t : State, t.phase = p → controllerStep t = mexpStep done t)
    (hcount : ∀ t : State, t.phase = p → (sampleOf t).rst = false → mulmodsInStep t = mexpMulmods t)
    {s : State} (hphase : s.phase = p) (hm : s.xm ≠ 0) (hreset : NoResetFor (bitlen s.xe + 1) s) :
    mulmodsInRun (bitlen s.xe + 1) s = bitlen s.xe + popcount s.xe := by
  induction hn : bitlen s.xe generalizing s with
  | zero =>
    have he : s.xe = 0 := not_imp_not.1 bitlen_ne_zero hn
    rw [mulmodsInRun_one, hcount s hphase hreset.sample, mexpMulmods, if_pos he, he]
    decide
  | succ n ih =>
    have he : s.xe ≠ 0 := fun h => by simp [h, bitlen] at hn
    have hhalf : bitlen (s.xe >>> 1) = n := by
      rw [bitlen_of_ne_zero he] at hn
      omega
    have hb : busy s = true := by simpa [busy, hphase] using hp
    have hiter : step s = .next (mexpIter (dropSample s)) :=
      (step_busy hreset.sample hb).trans ((hstep (dropSample s) hphase).trans (mexpStep_iter he hm))
    have hreset1 : NoResetFor (bitlen (s.xe >>> 1) + 1) (mexpIter (dropSample s)) := by
      rw [bitlen_of_ne_zero he, Nat.add_comm] at hreset
      exact hreset.after (by simp)
    have hrest : mulmodsInRun (n + 1) (mexpIter (dropSample s)) = n + popcount (s.xe >>> 1) :=
      ih (s := mexpIter (dropSample s)) hphase hm hreset1 hhalf
    rw [mulmodsInRun_succ_of_step hiter, hrest, hcount s hphase hreset.sample, mexpMulmods_of_ne_zero he,
      popcount_eq_add s.xe]
    omega

theorem mulmodsInStep_pmLoop {s : State} (hphase : s.phase = .pmLoop) (hrst : (sampleOf s).rst = false) :
    mulmodsInStep s = mexpMulmods s := by
  simp [mulmodsInStep, hphase, hrst]

/-- Settles O20: the count of the exponentiation from the state accept leaves; an exponent has 64 bits. -/
theorem powModOperationCount : Obligations.PowModOperationCount := by
  intro a e m s hidle hm hreset
  have hcount : mulmodsInRun (bitlen e + 1) (powModStarted a e m s) = bitlen e + popcount e :=
    mulmodsInRun_mexp (s := powModStarted a e m s) (by decide) (fun _ => controllerStep_pmLoop)
      (fun _ => mulmodsInStep_pmLoop) rfl hm hreset
  have hbitlen : bitlen e ≤ 64 := bitlen_add_le (r := 0) (by omega) (Nat.zero_le 64)
  have hpopcount : popcount e ≤ 64 := popcount_le e
  exact ⟨_, exec_powMod hm a e hidle, hcount, by omega⟩

end Sys2Proof.Machine

/-! PROOFS. The phases of `is_probable_prime`: the whole next state of a step of each
(42_miller_rabin_test.md R78 to R88). -/

namespace Sys2Proof.Machine

theorem isPred_iff {x n : Word} : isPred x n = true ↔ x.toNat + 1 = n.toNat := by
  simp [isPred]

/-- In a phase of a command a step without reset is the controller's. -/
theorem step_of_phase {s : State} {p : Phase} (hp : p ≠ .idle) (hphase : s.phase = p)
    (hrst : (sampleOf s).rst = false) : step s = controllerStep (dropSample s) :=
  step_busy hrst (by simpa [busy, hphase] using hp)

/-- Settles O32: accept leaves `IP_RANGE`, and the range check has two branches. -/
theorem rangeCheckStep : Obligations.RangeCheckStep := by
  refine ⟨fun n y z s hidle => ⟨_, exec_idle hidle, rfl, rfl⟩, fun s hphase hrst => ?_⟩
  rw [step_of_phase (by decide) hphase hrst, controllerStep_ipRange (s := dropSample s) hphase]
  exact ⟨fun hlt => if_pos hlt, fun hge => if_neg (Nat.not_lt.2 hge)⟩

/-- Settles O33: the three branches on the table entry read. -/
theorem trialDivisionStep : Obligations.TrialDivisionStep := by
  intro s p hphase hrst hp
  rw [step_of_phase (by decide) hphase hrst, controllerStep_ipTrial (s := dropSample s) hphase,
    stepIpTrial_of_romRead (s := dropSample s) hp]
  simp only [ne_eq, ← trialRem_eq_zero_iff]
  refine ⟨fun hdvd => (if_pos hdvd).trans ?_, fun hrem h11 => (if_neg hrem).trans (if_pos h11),
    fun hrem h11 => (if_neg hrem).trans (if_neg h11)⟩
  simp [complete, verdictWord, dropSample]

/-- Settles O34: the lowest bit of `D` decides. -/
theorem decompositionStep : Obligations.DecompositionStep := by
  intro s hphase hrst
  rw [step_of_phase (by decide) hphase hrst, controllerStep_ipDecomp (s := dropSample s) hphase]
  exact ⟨fun heven hr => stepIpDecomp_even (ne_true_of_eq_false heven) hr, fun hodd => stepIpDecomp_odd hodd⟩

/-- Settles O36: the two branches of an exponentiation step. -/
theorem witnessPowerStep : Obligations.WitnessPowerStep := by
  intro s hphase hrst
  rw [step_of_phase (by decide) hphase hrst, controllerStep_ipPow (s := dropSample s) hphase]
  exact ⟨fun he => mexpStep_done he, fun he hm => mexpStep_iter he hm⟩

/-- Settles O37: the first check passes the base or goes on to squaring. -/
theorem firstCheckStep : Obligations.FirstCheckStep := by
  intro s hphase hrst
  have hcheck : s.x.toNat = 1 ∨ s.x.toNat + 1 = s.cx.toNat ↔ (s.x == 1 || isPred s.x s.cx) = true := by
    rw [Bool.or_eq_true, beq_iff_eq, isPred_iff, BitVec.toNat_eq]
    rfl
  rw [step_of_phase (by decide) hphase hrst, controllerStep_ipCheck (s := dropSample s) hphase, hcheck]
  refine ⟨fun hpass => ?_, fun hnot => if_neg hnot⟩
  rw [show stepIpCheck (dropSample s) = nextBase (dropSample s) from if_pos hpass]
  exact ⟨fun hlt => nextBase_more hlt, fun h6 => nextBase_last h6⟩

/-- Settles O38: the base fails after `r - 1` squarings; else one more squaring, which may pass the base. -/
theorem squaringStep : Obligations.SquaringStep := by
  intro s hphase hrst hcx
  rw [step_of_phase (by decide) hphase hrst, controllerStep_ipSquare (s := dropSample s) hphase]
  refine ⟨fun hle => stepIpSquare_fails hle, fun hlt => ?_⟩
  rw [stepIpSquare_squares (s := dropSample s) hlt hcx]
  simp only [ne_eq, ← isPred_iff]
  refine ⟨fun hnot => if_neg hnot, fun hpred hbi => (if_pos hpred).trans ?_, fun hpred h6 => (if_pos hpred).trans ?_⟩
  · exact nextBase_more (s := { dropSample s with x := mulmod s.x s.x s.cx, sq := s.sq + 1 }) hbi
  · exact nextBase_last (s := { dropSample s with x := mulmod s.x s.x s.cx, sq := s.sq + 1 }) h6

end Sys2Proof.Machine

/-! PROOFS. The functions of `is_probable_prime` over the integers: trial division, the decomposition, the strong check,
and the verdict they make (42_miller_rabin_test.md R79 to R93). -/

namespace Sys2Proof.Machine

/-! ### The table of small primes -/

/-- A list of table entries leaves a candidate undecided exactly when none of them divides it. -/
theorem trialDivision_eq_none_iff {n : Word} {ps : List Word} :
    trialDivision n ps = none ↔ ∀ p ∈ ps, n.toNat % p.toNat ≠ 0 := by
  induction ps with
  | nil => simp [trialDivision]
  | cons p ps ih =>
    rw [List.forall_mem_cons, ← ih, trialDivision, ne_eq, ← trialRem_eq_zero_iff]
    split_ifs with hp
    · simp [hp]
    · exact (and_iff_right hp).symm

/-- A decision names the entry that divides the candidate. -/
theorem exists_dvd_of_trialDivision {n : Word} {ps : List Word} {v : Bool} (h : trialDivision n ps = some v) :
    ∃ p ∈ ps, n.toNat % p.toNat = 0 ∧ v = (n == p) := by
  induction ps with
  | nil => cases h
  | cons p ps ih =>
    rw [trialDivision] at h
    split at h
    next hp => exact ⟨p, by simp, trialRem_eq_zero_iff.1 hp, (Option.some.inj h).symm⟩
    next =>
      obtain ⟨q, hq, hdvd⟩ := ih h
      exact ⟨q, List.mem_cons_of_mem p hq, hdvd⟩

/-- Of the small primes only the candidate itself can divide a candidate that is prime. -/
theorem eq_of_prime_of_dvd {n p : Word} (hn : n.toNat.Prime) (hp : p ∈ smallPrimes) (hdvd : n.toNat % p.toNat = 0) :
    n = p :=
  BitVec.eq_of_toNat_eq ((Nat.prime_dvd_prime_iff_eq (prime_of_mem_smallPrimes p hp) hn).1
    (Nat.dvd_of_mod_eq_zero hdvd)).symm

/-- Where trial division decides, it decides whether the candidate is a small prime (42_miller_rabin_test.md R79). -/
theorem trialDivision_smallPrimes_eq_some {n : Word} {v : Bool} (h : trialDivision n smallPrimes = some v) :
    v = true ↔ n ∈ smallPrimes := by
  obtain ⟨p, hp, hdvd, rfl⟩ := exists_dvd_of_trialDivision h
  rw [beq_iff_eq]
  exact ⟨fun hnp => hnp ▸ hp, fun hn => eq_of_prime_of_dvd (prime_of_mem_smallPrimes n hn) hp hdvd⟩

/-! ### Undecided candidates -/

theorem bases_pos_and_lt_41 : ∀ a ∈ bases, 0 < a.toNat ∧ a.toNat < 41 := by
  rw [forall_mem_bases]
  decide

/-- A candidate above the base table skips no base (42_miller_rabin_test.md R84). -/
theorem baseSkipped_eq_false {n a : Word} (h0 : 0 < a.toNat) (h : a.toNat < n.toNat) : baseSkipped n a = false := by
  have hmod : (a % n).toNat = a.toNat := by rw [BitVec.toNat_umod, Nat.mod_eq_of_lt h]
  have hne : a % n ≠ 0 := by bv_omega
  have hlt : ¬ n ≤ a := by bv_omega
  rw [baseSkipped, beq_false_of_ne hne, decide_eq_false hlt, Bool.or_self]

theorem PassedTrialDivision.base_lt {n : Word} (h : PassedTrialDivision n) : ∀ a ∈ bases, a.toNat < n.toNat :=
  fun a ha => (bases_pos_and_lt_41 a ha).2.trans_le h.1

theorem PassedTrialDivision.baseSkipped {n : Word} (h : PassedTrialDivision n) :
    ∀ a ∈ bases, baseSkipped n a = false :=
  fun a ha => baseSkipped_eq_false (bases_pos_and_lt_41 a ha).1 (h.base_lt a ha)

/-- Settles O40: no small prime divides the candidate, so it passed trial division, and lies above the base table. -/
theorem undecidedCandidatesAreAtLeast41 : Obligations.UndecidedCandidatesAreAtLeast41 := by
  unfold Obligations.UndecidedCandidatesAreAtLeast41
  intro n h2 hnone
  have hn : PassedTrialDivision n := passedTrialDivision_of_forall h2 (trialDivision_eq_none_iff.1 hnone)
  exact ⟨hn.1, hn.odd, fun a ha => ⟨hn.base_lt a ha, hn.baseSkipped a ha⟩⟩

/-! ### The decomposition -/

/-- The halvings keep `d * 2^r`, and enough of them end with an odd `d`. -/
theorem decomposeLoop_spec {k : Nat} {d : Word} (hd : d.toNat ≠ 0) (hk : d.toNat < 2 ^ k) (r : Nat) :
    (decomposeLoop k d r).1.toNat * 2 ^ (decomposeLoop k d r).2 = d.toNat * 2 ^ r ∧
      (decomposeLoop k d r).1.toNat % 2 = 1 := by
  induction k generalizing d r with
  | zero => omega
  | succ k ih =>
    rw [decomposeLoop]
    by_cases hlow : lowBit d = true
    · rw [if_pos hlow]
      exact ⟨rfl, lowBit_eq_true_iff.1 hlow⟩
    · have heven : d.toNat % 2 = 0 := lowBit_eq_false_iff.1 (Bool.eq_false_of_not_eq_true hlow)
      have hhalf : (d >>> 1).toNat = d.toNat / 2 := toNat_ushiftRight_one d
      obtain ⟨hprod, hodd⟩ := ih (d := d >>> 1) (by omega) (by omega) (r + 1)
      rw [if_neg hlow, hprod, hhalf, pow_succ', ← mul_assoc, Nat.div_mul_cancel (Nat.dvd_of_mod_eq_zero heven)]
      exact ⟨rfl, hodd⟩

theorem decompose_spec {n : Word} (h3 : 3 ≤ n.toNat) :
    (decompose n).1.toNat * 2 ^ (decompose n).2 = n.toNat - 1 ∧ (decompose n).1.toNat % 2 = 1 := by
  have hpred : (n - 1).toNat = n.toNat - 1 := by bv_omega
  have hloop := decomposeLoop_spec (k := 64) (d := n - 1) (by omega) (n - 1).isLt 0
  rwa [pow_zero, mul_one, hpred] at hloop

/-- Settles O39: `n - 1` is even, so that at least one halving is made, and has 64 bits, so that at most 63 are. -/
theorem decompositionIsExact : Obligations.DecompositionIsExact := by
  intro n h3 hodd
  obtain ⟨hprod, hd⟩ := decompose_spec h3
  refine ⟨by omega, hd, ?_, ?_⟩
  · by_contra hr
    rw [show (decompose n).2 = 0 by omega, pow_zero, mul_one] at hprod
    omega
  · have hle : 2 ^ (decompose n).2 ≤ (decompose n).1.toNat * 2 ^ (decompose n).2 :=
      Nat.le_mul_of_pos_left _ (by omega)
    have hpow : 2 ^ (decompose n).2 < 2 ^ 64 := by omega
    exact Nat.le_of_lt_succ ((Nat.pow_lt_pow_iff_right (by decide)).1 hpow)

/-! ### The strong check -/

/-- The repeated squaring reaches `n - 1` after one squaring or more, at most `k`. -/
theorem squaringsReachPred_iff {n : Word} (hn : n ≠ 0) (k : Nat) (x : Word) :
    squaringsReachPred n k x = true ↔ ∃ j < k, x.toNat ^ 2 ^ (j + 1) % n.toNat + 1 = n.toNat := by
  induction k generalizing x with
  | zero => simp [squaringsReachPred]
  | succ k ih =>
    have hsquare (j : Nat) :
        (mulmod x x n).toNat ^ 2 ^ (j + 1) % n.toNat = x.toNat ^ 2 ^ (j + 1 + 1) % n.toNat := by
      rw [mulmod_toNat hn, ← Nat.pow_mod, ← pow_two, ← pow_mul, ← pow_succ']
    have hfirst : isPred (mulmod x x n) n = true ↔ x.toNat ^ 2 ^ (0 + 1) % n.toNat + 1 = n.toNat := by
      rw [isPred_iff, mulmod_toNat hn, zero_add, pow_one, pow_two]
    rw [squaringsReachPred, Nat.exists_lt_succ_left, ← hfirst]
    by_cases hpred : isPred (mulmod x x n) n = true
    · simp [hpred]
    · simp [hpred, ih, hsquare]

/-- Settles O41: the first check is the power with no squaring, the repetition those with `1` to `r - 1` squarings. -/
theorem strongCheckMeaning : Obligations.StrongCheckMeaning := by
  unfold Obligations.StrongCheckMeaning
  intro n d a r hn hr
  have hn0 : n ≠ 0 := by bv_omega
  obtain ⟨k, rfl⟩ : ∃ k, r = k + 1 := ⟨r - 1, by omega⟩
  have hpow (j : Nat) : a.toNat ^ (d.toNat * 2 ^ j) % n.toNat = n.toNat - 1 ↔
      (powmod a d n).toNat ^ 2 ^ j % n.toNat + 1 = n.toNat := by
    rw [powmod_toNat hn0, ← Nat.pow_mod, ← pow_mul]
    omega
  have hone : (powmod a d n == 1) = true ↔ a.toNat ^ d.toNat % n.toNat = 1 := by
    rw [beq_iff_eq, ← powmod_toNat hn0]
    exact BitVec.toNat_eq
  have hfirst : isPred (powmod a d n) n = true ↔ (powmod a d n).toNat ^ 2 ^ 0 % n.toNat + 1 = n.toNat := by
    rw [isPred_iff, pow_zero, pow_one, Nat.mod_eq_of_lt (powmod_lt hn0 a d)]
  simp only [hpow, Nat.exists_lt_succ_left, ← hone, ← hfirst, ← squaringsReachPred_iff hn0, sprp,
    Nat.add_sub_cancel]
  simp [or_assoc]

/-! ### The verdict -/

theorem witnessLoop_eq_true_iff {n d : Word} {r : Nat} {as : List Word} (hskip : ∀ a ∈ as, baseSkipped n a = false) :
    witnessLoop n d r as = true ↔ ∀ a ∈ as, sprp n d r a = true := by
  induction as with
  | nil => simp [witnessLoop]
  | cons a as ih =>
    obtain ⟨ha, has⟩ := List.forall_mem_cons.1 hskip
    rw [witnessLoop_cons, ha, List.forall_mem_cons, ← ih has]
    simp

/-- Settles O42: a decision of trial division is about the small primes; an undecided candidate is none of them, and
skips no base. -/
theorem verdictMeaning : Obligations.VerdictMeaning := by
  unfold Obligations.VerdictMeaning
  intro n
  by_cases h2 : n < 2
  · have hlt : ¬ 2 ≤ n.toNat := by bv_omega
    have hverdict : verdict n = false := if_pos h2
    simp [hverdict, hlt]
  have hge : 2 ≤ n.toNat := by bv_omega
  rw [verdict_eq_getD h2]
  cases hdiv : trialDivision n smallPrimes with
  | some v =>
    obtain ⟨p, hp, hdvd, -⟩ := exists_dvd_of_trialDivision hdiv
    have hnot : ¬ ∀ p ∈ smallPrimes, n.toNat % p.toNat ≠ 0 := fun hall => hall p hp hdvd
    simp only [Option.getD_some, trialDivision_smallPrimes_eq_some hdiv, hge, hnot, false_and, or_false, true_and]
  | none =>
    have hall := trialDivision_eq_none_iff.1 hdiv
    have hmem : n ∉ smallPrimes := fun h => hall n h (Nat.mod_self _)
    simp only [Option.getD_none, witnessLoop_eq_true_iff (passedTrialDivision_of_forall hge hall).baseSkipped, hge,
      hmem, false_or, true_and, iff_true_intro hall]

/-- Settles O43: a small prime that divides another small prime is that prime. -/
theorem smallPrimesAndTheirMultiples : Obligations.SmallPrimesAndTheirMultiples := by
  refine ⟨fun n hn => if_pos hn, fun p hp => ?_⟩
  refine ⟨(verdictMeaning p).2 ⟨(prime_of_mem_smallPrimes p hp).two_le, .inl hp⟩, fun n hdvd hne => ?_⟩
  rw [← Bool.not_eq_true, verdictMeaning]
  rintro ⟨-, hmem | ⟨hall, -⟩⟩
  · exact hne (eq_of_prime_of_dvd (prime_of_mem_smallPrimes n hmem) hp hdvd)
  · exact hall p hp hdvd

/-! ### Primes pass -/

/-- Where 1 has no square root but `1` and `-1`, repeated squaring that ends in 1 began there or went through `-1`. -/
theorem eq_one_or_exists_sq_eq_neg_one {R : Type} [CommRing R] [NoZeroDivisors R] {x : R} {r : Nat}
    (h : x ^ 2 ^ r = 1) : x = 1 ∨ ∃ j < r, x ^ 2 ^ j = -1 := by
  induction r with
  | zero => exact .inl (by simpa using h)
  | succ r ih =>
    have hsq : x ^ 2 ^ r * x ^ 2 ^ r = 1 := by rw [← pow_two, ← pow_mul, ← pow_succ, h]
    obtain h1 | hneg := mul_self_eq_one_iff.1 hsq
    · exact (ih h1).imp_right fun ⟨j, hj, hx⟩ => ⟨j, by omega, hx⟩
    · exact .inr ⟨r, by omega, hneg⟩

/-- Fermat's little theorem and the square roots of 1 modulo a prime: a prime passes the strong check to every base it
does not divide. -/
theorem strongCheck_of_prime {n d r a : Nat} (hn : n.Prime) (hdec : d * 2 ^ r + 1 = n) (ha : ¬ n ∣ a) :
    a ^ d % n = 1 ∨ ∃ j < r, a ^ (d * 2 ^ j) % n = n - 1 := by
  have : Fact n.Prime := ⟨hn⟩
  have hfermat : ((a : ZMod n) ^ d) ^ 2 ^ r = 1 := by
    rw [← pow_mul, show d * 2 ^ r = n - 1 by omega]
    exact ZMod.pow_card_sub_one_eq_one fun h => ha ((ZMod.natCast_eq_zero_iff a n).1 h)
  refine (eq_one_or_exists_sq_eq_neg_one hfermat).imp (fun h1 => ?_) fun ⟨j, hj, hneg⟩ => ⟨j, hj, ?_⟩
  · have hmod : a ^ d ≡ 1 [MOD n] := (ZMod.natCast_eq_natCast_iff _ _ _).1 (by simpa using h1)
    exact Nat.mod_eq_of_modEq hmod hn.one_lt
  · have hmod : a ^ (d * 2 ^ j) ≡ n - 1 [MOD n] :=
      (ZMod.natCast_eq_natCast_iff _ _ _).1 (by simp [pow_mul, hneg, Nat.cast_sub hn.one_le])
    exact Nat.mod_eq_of_modEq hmod (Nat.sub_lt hn.pos Nat.one_pos)

/-- Settles O44: a prime is a small prime, or undecided by trial division and above every base, and passes the strong
check. -/
theorem primesAreNeverRejected : Obligations.PrimesAreNeverRejected := by
  unfold Obligations.PrimesAreNeverRejected
  intro n hprime
  refine (verdictMeaning n).2 ⟨hprime.two_le, or_iff_not_imp_left.2 fun hmem => ?_⟩
  have hall : ∀ p ∈ smallPrimes, n.toNat % p.toNat ≠ 0 := fun p hp hdvd =>
    hmem (eq_of_prime_of_dvd hprime hp hdvd ▸ hp)
  have hn : PassedTrialDivision n := passedTrialDivision_of_forall hprime.two_le hall
  obtain ⟨hdec, -, hr, -⟩ := decompositionIsExact n (le_trans (by decide) hn.1) hn.odd
  refine ⟨hall, fun a ha => (strongCheckMeaning _ _ _ _ hprime.two_le hr).2 (strongCheck_of_prime hprime hdec ?_)⟩
  exact Nat.not_dvd_of_pos_of_lt (bases_pos_and_lt_41 a ha).1 (hn.base_lt a ha)

/-- Settles O45: the kernel evaluates the model's `verdict` on the two composites. -/
theorem twoCompositesAreCalledPrime : Obligations.TwoCompositesAreCalledPrime := by
  refine ⟨?_, by norm_num, ?_, by norm_num⟩
  · decide +kernel
  · decide +kernel

end Sys2Proof.Machine

/-! PROOFS. `is_probable_prime` as a whole: no base is skipped, and the command answers the verdict
(42_miller_rabin_test.md R84, R90). -/

namespace Sys2Proof.Machine

theorem one_umod_of_passed {n : Word} (hn : PassedTrialDivision n) : 1 % n = 1 := by
  have h41 : 41 ≤ n.toNat := hn.1
  have h1 : n ≠ 1 := by bv_omega
  rw [one_umod hn.ne_zero, if_neg h1]

/-- Settles O35: the index is in the table, and the candidate passed trial division, so that no base is skipped. -/
theorem baseSelectionNeverSkips : Obligations.BaseSelectionNeverSkips := by
  intro s hs hphase hrst
  obtain ⟨⟨-, hbi, -⟩, -, hp⟩ := hs
  obtain ⟨hn, -⟩ := (phaseInvariant_ipBase hphase).1 hp
  obtain ⟨a, ha⟩ := exists_romRead_eq_some (t := .base) (Nat.lt_succ_of_le hbi)
  have hskip : baseSkipped s.cx a = false := hn.baseSkipped a (List.mem_of_getElem? ha)
  refine ⟨a, ha, ?_⟩
  rw [step_of_phase (by decide) hphase hrst, controllerStep_ipBase (s := dropSample s) hphase,
    stepIpBase_of_romRead (s := dropSample s) ha, ← one_umod_of_passed hn]
  exact if_neg (ne_true_of_eq_false hskip)

/-! ### The whole command -/

theorem KeepsCommand.trans {s t u : State} (h : KeepsCommand s t) (h' : KeepsCommand t u) : KeepsCommand s u :=
  ⟨h'.op.trans h.op, h'.cx.trans h.cx, h'.cy.trans h.cy, h'.cz.trans h.cz, h'.errSticky.trans h.errSticky⟩

/-- Without reset a busy run leaves the command latches and `err_sticky` alone. -/
theorem BusyRun.keepsCommand {k : Nat} {s u : State} (h : BusyRun k s u) (hreset : NoResetFor k s) :
    KeepsCommand s u := by
  induction h with
  | refl s => exact ⟨rfl, rfl, rfl, rfl, rfl⟩
  | @head k s t u hb _ hs _ ih =>
    have hcontrol : controllerStep (dropSample s) = .next t := (step_busy hreset.sample hb).symm.trans hs
    obtain ⟨hop, hcx, hcy, hcz, hsticky⟩ := controllerStep_keepsCommand hcontrol
    rw [Nat.add_comm] at hreset
    exact KeepsCommand.trans ⟨hop, hcx, hcy, hcz, hsticky⟩ (ih (hreset.after (by simp [step_inputs hs])))

/-- Settles O19: the phases' busy run from the state accept leaves, whose end holds `verdict`. -/
theorem isProbablePrimeAnswersTheVerdict : Obligations.IsProbablePrimeAnswersTheVerdict := by
  intro n y z s hidle hreset
  obtain ⟨k, hk, u, hrun, hphase, hvalid, herr, hdata⟩ :=
    completesWithin_ipRange (s := gotoPhase .ipRange (latchCommand 2 n y z s)) rfl rfl hreset
  obtain ⟨hop, hcx, hcy, hcz, hsticky⟩ := hrun.keepsCommand (NoResetFor.mono (s := s) hreset hk)
  exact ⟨_, k, u, exec_idle hidle, hk, hrun.run_eq, hrun.before, hphase, hvalid, herr, hdata, hsticky, hop, hcx, hcy,
    hcz⟩

end Sys2Proof.Machine

/-! PROOFS. How many times `is_probable_prime` evaluates `mulmod` (42_miller_rabin_test.md R95): a bound on what is left,
phase by phase, that every step is paid from. -/

namespace Sys2Proof.Machine

theorem popcount_le_bitlen (e : Word) : popcount e ≤ bitlen e := by
  induction hn : bitlen e generalizing e with
  | zero =>
    have he : e = 0 := not_imp_not.1 bitlen_ne_zero hn
    rw [he]
    decide
  | succ n ih =>
    have he : e ≠ 0 := fun h => by simp [h, bitlen] at hn
    have hrest : popcount (e >>> 1) ≤ n := ih _ (by rw [bitlen_of_ne_zero he] at hn; omega)
    rw [popcount_eq_add]
    split_ifs <;> omega

theorem mexpMulmods_le (s : State) : mexpMulmods s ≤ bitlen s.xe + popcount s.xe := by
  by_cases he : s.xe = 0
  · simp [mexpMulmods, he]
  · rw [mexpMulmods_of_ne_zero he, bitlen_of_ne_zero he, popcount_eq_add]
    omega

/-- What the strong check of one base costs at most: the exponentiation by `D` and `R - 1` squarings
(42_miller_rabin_test.md R95). -/
def turnCost (s : State) : Nat := bitlen s.d + popcount s.d + (s.r.toNat - 1)

/-- `2 ^ r` with `r ≥ 1` leaves the odd part at most `64 - r` bits, each counted at most twice. -/
theorem turnCost_le {s : State} (hr : 1 ≤ s.r.toNat) (h : s.d.toNat * 2 ^ s.r.toNat < 2 ^ 64) : turnCost s ≤ 126 := by
  have hbits : bitlen s.d + s.r.toNat ≤ 64 := bitlen_add_le h (by omega)
  have hpop : popcount s.d ≤ bitlen s.d := popcount_le_bitlen s.d
  unfold turnCost
  omega

/-- The `mulmod` evaluations that `is_probable_prime` has left are at most `b`: those of the base whose turn it is, and
126 for each base after it. The indices may start out of their ranges; what the bound rests on is that the candidate of
the decomposition is odd, so that a base's turn costs at most 126. -/
def MulmodsWithin (b : Nat) (s : State) : Prop :=
  match s.phase with
  | .idle => True
  | .mmExec | .pmLoop => False
  | .ipRange => 882 ≤ b
  | .ipTrial => (s.pi = 0 ∨ s.cx.toNat % 2 = 1) ∧ 882 ≤ b
  | .ipDecomp => s.cx.toNat % 2 = 1 ∧ s.d.toNat * 2 ^ s.r.toNat + 1 = s.cx.toNat ∧ 882 ≤ b
  | .ipBase => turnCost s ≤ 126 ∧ 126 * (7 - s.bi.toNat) ≤ b
  | .ipPow =>
    turnCost s ≤ 126 ∧ bitlen s.xe + popcount s.xe + (s.r.toNat - 1) + 126 * (6 - s.bi.toNat) ≤ b
  | .ipCheck => turnCost s ≤ 126 ∧ s.r.toNat - 1 + 126 * (6 - s.bi.toNat) ≤ b
  | .ipSquare => turnCost s ≤ 126 ∧ s.r.toNat - 1 - s.sq.toNat + 126 * (6 - s.bi.toNat) ≤ b

section
variable {b : Nat} {s t : State}

theorem mulmodsWithin_of_idle (h : s.phase = .idle) : MulmodsWithin b s := by
  simp only [MulmodsWithin, h]

theorem mulmodsWithin_ipRange (h : s.phase = .ipRange) : MulmodsWithin b s ↔ 882 ≤ b := by
  simp only [MulmodsWithin, h]

theorem mulmodsWithin_ipTrial (h : s.phase = .ipTrial) :
    MulmodsWithin b s ↔ (s.pi = 0 ∨ s.cx.toNat % 2 = 1) ∧ 882 ≤ b := by
  simp only [MulmodsWithin, h]

theorem mulmodsWithin_ipDecomp (h : s.phase = .ipDecomp) :
    MulmodsWithin b s ↔ s.cx.toNat % 2 = 1 ∧ s.d.toNat * 2 ^ s.r.toNat + 1 = s.cx.toNat ∧ 882 ≤ b := by
  simp only [MulmodsWithin, h]

theorem mulmodsWithin_ipBase (h : s.phase = .ipBase) :
    MulmodsWithin b s ↔ turnCost s ≤ 126 ∧ 126 * (7 - s.bi.toNat) ≤ b := by
  simp only [MulmodsWithin, h]

theorem mulmodsWithin_ipPow (h : s.phase = .ipPow) :
    MulmodsWithin b s ↔
      turnCost s ≤ 126 ∧ bitlen s.xe + popcount s.xe + (s.r.toNat - 1) + 126 * (6 - s.bi.toNat) ≤ b := by
  simp only [MulmodsWithin, h]

theorem mulmodsWithin_ipCheck (h : s.phase = .ipCheck) :
    MulmodsWithin b s ↔ turnCost s ≤ 126 ∧ s.r.toNat - 1 + 126 * (6 - s.bi.toNat) ≤ b := by
  simp only [MulmodsWithin, h]

theorem mulmodsWithin_ipSquare (h : s.phase = .ipSquare) :
    MulmodsWithin b s ↔ turnCost s ≤ 126 ∧ s.r.toNat - 1 - s.sq.toNat + 126 * (6 - s.bi.toNat) ≤ b := by
  simp only [MulmodsWithin, h]

/-- The end of a base's turn leaves 126 for each later base. -/
theorem nextBase_mulmodsWithin (hturn : turnCost s ≤ 126) (hb : 126 * (6 - s.bi.toNat) ≤ b)
    (h : nextBase s = .next t) : MulmodsWithin b t := by
  obtain ⟨-, rfl⟩ | ⟨h6, h7, rfl⟩ := nextBase_next h
  · exact mulmodsWithin_of_idle rfl
  · have hbi : 7 - (s.bi + 1).toNat = 6 - s.bi.toNat := by bv_omega
    exact (mulmodsWithin_ipBase rfl).2 ⟨hturn, hbi.symm ▸ hb⟩

theorem stepIpRange_mulmodsWithin (hphase : s.phase = .ipRange) (hs : MulmodsWithin b s)
    (h : stepIpRange s = .next t) : MulmodsWithin b t := by
  obtain ⟨-, rfl⟩ | ⟨-, rfl⟩ := stepIpRange_next h
  · exact mulmodsWithin_of_idle rfl
  · exact (mulmodsWithin_ipTrial rfl).2 ⟨.inl rfl, (mulmodsWithin_ipRange hphase).1 hs⟩

/-- The first table entry is 2: past it the candidate is odd. -/
theorem stepIpTrial_mulmodsWithin (hphase : s.phase = .ipTrial) (hs : MulmodsWithin b s)
    (h : stepIpTrial s = .next t) : MulmodsWithin b t := by
  obtain ⟨hfirst, hb⟩ := (mulmodsWithin_ipTrial hphase).1 hs
  have hodd {p : Word} (hp : romRead .smallPrime s.pi.toNat = some p) (hrem : trialRem s.cx p ≠ 0) :
      s.cx.toNat % 2 = 1 := by
    refine hfirst.elim (fun h0 => ?_) id
    rw [h0] at hp
    cases hp
    rw [ne_eq, trialRem_eq_zero_iff] at hrem
    exact Nat.mod_two_ne_zero.1 hrem
  obtain ⟨p, hp, ⟨-, rfl⟩ | ⟨hrem, -, rfl⟩ | ⟨hrem, -, rfl⟩⟩ := stepIpTrial_next h
  · exact mulmodsWithin_of_idle rfl
  · have hcx := hodd hp hrem
    have hpred : (s.cx - 1).toNat * 2 ^ (0 : BitVec 6).toNat + 1 = s.cx.toNat := by
      rw [show (0 : BitVec 6).toNat = 0 from rfl]
      bv_omega
    exact (mulmodsWithin_ipDecomp rfl).2 ⟨hcx, hpred, hb⟩
  · exact (mulmodsWithin_ipTrial (s := { s with pi := s.pi + 1 }) hphase).2 ⟨.inr (hodd hp hrem), hb⟩

/-- The last halving leaves `R >= 1`, since `n - 1` is even. -/
theorem stepIpDecomp_mulmodsWithin (hphase : s.phase = .ipDecomp) (hs : MulmodsWithin b s)
    (h : stepIpDecomp s = .next t) : MulmodsWithin b t := by
  obtain ⟨hodd, hprod, hb⟩ := (mulmodsWithin_ipDecomp hphase).1 hs
  obtain ⟨hlow, rfl⟩ | ⟨hlow, hr, rfl⟩ := stepIpDecomp_next h
  · have hd : s.d.toNat % 2 = 1 := lowBit_eq_true_iff.1 hlow
    have hr : 1 ≤ s.r.toNat := by
      by_contra hr
      rw [show s.r.toNat = 0 by omega, pow_zero, mul_one] at hprod
      omega
    exact (mulmodsWithin_ipBase rfl).2 ⟨turnCost_le (s := s) hr (by omega), hb⟩
  · exact (mulmodsWithin_ipDecomp (s := { s with d := s.d >>> 1, r := s.r + 1 }) hphase).2
      ⟨hodd, (congrArg (· + 1) (halving_keeps_product hlow hr)).trans hprod, hb⟩

theorem stepIpBase_mulmodsWithin (hphase : s.phase = .ipBase) (hs : MulmodsWithin b s)
    (h : stepIpBase s = .next t) : MulmodsWithin b t := by
  obtain ⟨hturn, hb⟩ := (mulmodsWithin_ipBase hphase).1 hs
  obtain ⟨a, ha, ⟨-, hnext⟩ | ⟨-, rfl⟩⟩ := stepIpBase_next h
  · exact nextBase_mulmodsWithin hturn (by omega) hnext
  · have hbi : s.bi.toNat < 7 := (romRead_isSome .base _).1 (ha ▸ rfl)
    refine (mulmodsWithin_ipPow rfl).2 ⟨hturn, ?_⟩
    have hload : bitlen s.d + popcount s.d + (s.r.toNat - 1) ≤ 126 := hturn
    simp only [gotoPhase_r, gotoPhase_bi, gotoPhase_xe, loadMexp_r, loadMexp_bi, loadMexp_xe]
    omega

theorem stepIpPow_mulmodsWithin (hphase : s.phase = .ipPow) (hs : MulmodsWithin b s)
    (h : stepIpPow s = .next t) : MulmodsWithin (b - mexpMulmods s) t := by
  obtain ⟨hturn, hb⟩ := (mulmodsWithin_ipPow hphase).1 hs
  obtain ⟨he, rfl⟩ | ⟨he, -, rfl⟩ := stepIpPow_next h
  · rw [show mexpMulmods s = 0 from if_pos he]
    exact (mulmodsWithin_ipCheck rfl).2 ⟨hturn, by dsimp only; omega⟩
  · rw [bitlen_of_ne_zero he, popcount_eq_add] at hb
    rw [mexpMulmods_of_ne_zero he, mulmodsWithin_ipPow (s := mexpIter s) hphase]
    exact ⟨hturn, by simp only [mexpIter_xe, mexpIter_r, mexpIter_bi]; omega⟩

theorem stepIpCheck_mulmodsWithin (hphase : s.phase = .ipCheck) (hs : MulmodsWithin b s)
    (h : stepIpCheck s = .next t) : MulmodsWithin b t := by
  obtain ⟨hturn, hb⟩ := (mulmodsWithin_ipCheck hphase).1 hs
  obtain ⟨-, hnext⟩ | ⟨-, rfl⟩ := stepIpCheck_next h
  · exact nextBase_mulmodsWithin hturn (by omega) hnext
  · exact (mulmodsWithin_ipSquare rfl).2 ⟨hturn, hb⟩

theorem stepIpSquare_mulmodsWithin (hphase : s.phase = .ipSquare) (hs : MulmodsWithin b s)
    (h : stepIpSquare s = .next t) : MulmodsWithin (b - if s.r.toNat ≤ s.sq.toNat + 1 then 0 else 1) t := by
  obtain ⟨hturn, hb⟩ := (mulmodsWithin_ipSquare hphase).1 hs
  obtain ⟨hle, rfl⟩ | ⟨hlt, -, hcases⟩ := stepIpSquare_next h
  · exact mulmodsWithin_of_idle rfl
  · rw [if_neg (Nat.not_le.2 hlt)]
    obtain ⟨-, hnext⟩ | ⟨-, rfl⟩ := hcases
    · exact nextBase_mulmodsWithin (s := { s with x := mulmod s.x s.x s.cx, sq := s.sq + 1 }) hturn
        (by dsimp only; omega) hnext
    · have hsq : (s.sq + 1).toNat = s.sq.toNat + 1 := by bv_omega
      refine (mulmodsWithin_ipSquare (s := { s with x := mulmod s.x s.x s.cx, sq := s.sq + 1 }) hphase).2 ⟨hturn, ?_⟩
      dsimp only
      omega

end

/-- What one step evaluates is within the bound, also where the step has no next state. -/
theorem MulmodsWithin.mulmodsInStep_le {b : Nat} {s : State} (hs : MulmodsWithin b s) : mulmodsInStep s ≤ b := by
  unfold mulmodsInStep
  split
  · exact Nat.zero_le b
  · split
    case h_1 hphase => simp [MulmodsWithin, hphase] at hs
    case h_2 hphase => simp [MulmodsWithin, hphase] at hs
    case h_3 hphase =>
      obtain ⟨-, hb⟩ := (mulmodsWithin_ipPow hphase).1 hs
      have hiter : mexpMulmods s ≤ bitlen s.xe + popcount s.xe := mexpMulmods_le s
      omega
    case h_4 hphase =>
      obtain ⟨-, hb⟩ := (mulmodsWithin_ipSquare hphase).1 hs
      split_ifs <;> omega
    all_goals exact Nat.zero_le b

/-- What the controller's step evaluates is taken off the bound. -/
theorem controllerStep_mulmodsWithin {b : Nat} {s t : State} (hrst : (sampleOf s).rst = false)
    (hs : MulmodsWithin b s) (h : controllerStep (dropSample s) = .next t) :
    MulmodsWithin (b - mulmodsInStep s) t := by
  unfold mulmodsInStep
  rw [hrst, if_neg Bool.false_ne_true]
  unfold controllerStep at h
  rw [dropSample_phase] at h
  cases hphase : s.phase <;> simp only [hphase] at h ⊢
  case idle =>
    cases h
    exact mulmodsWithin_of_idle (s := dropSample s) hphase
  case mmExec => simp [MulmodsWithin, hphase] at hs
  case pmLoop => simp [MulmodsWithin, hphase] at hs
  case ipRange => exact stepIpRange_mulmodsWithin (s := dropSample s) hphase hs h
  case ipTrial => exact stepIpTrial_mulmodsWithin (s := dropSample s) hphase hs h
  case ipDecomp => exact stepIpDecomp_mulmodsWithin (s := dropSample s) hphase hs h
  case ipBase => exact stepIpBase_mulmodsWithin (s := dropSample s) hphase hs h
  case ipPow => exact stepIpPow_mulmodsWithin (s := dropSample s) hphase hs h
  case ipCheck => exact stepIpCheck_mulmodsWithin (s := dropSample s) hphase hs h
  case ipSquare => exact stepIpSquare_mulmodsWithin (s := dropSample s) hphase hs h

/-- The same for a step of the block that accepts no further command, a reset included. -/
theorem step_mulmodsWithin {b : Nat} {s t : State} (hacc : acceptsNow s = false) (hs : MulmodsWithin b s)
    (h : step s = .next t) : MulmodsWithin (b - mulmodsInStep s) t := by
  obtain ⟨-, rfl⟩ | ⟨hr, -, h⟩ | ⟨hr, hb, hv, -⟩ | ⟨-, hb, -, rfl⟩ := step_cases h
  · exact mulmodsWithin_of_idle rfl
  · exact controllerStep_mulmodsWithin hr hs h
  · exact absurd (acceptsNow_iff.2 ⟨hr, hb, hv⟩) (ne_true_of_eq_false hacc)
  · exact mulmodsWithin_of_idle (s := dropSample s) (busy_eq_false_iff.1 hb)

/-- A run in which no further command is accepted stays within the bound. -/
theorem MulmodsWithin.mulmodsInRun_le {k b : Nat} {s : State} (hs : MulmodsWithin b s)
    (hacc : ∀ j < k, ∀ u, run j s = .next u → acceptsNow u = false) : mulmodsInRun k s ≤ b := by
  induction k generalizing b s with
  | zero => exact Nat.zero_le b
  | succ k ih =>
    have hstep : mulmodsInStep s ≤ b := hs.mulmodsInStep_le
    cases ht : step s with
    | next t =>
      have hrest : mulmodsInRun k t ≤ b - mulmodsInStep s :=
        ih (step_mulmodsWithin (hacc 0 k.succ_pos s rfl) hs ht) fun j hj u hu =>
          hacc (j + 1) (Nat.succ_lt_succ hj) u ((run_succ_of_step ht).trans hu)
      rw [mulmodsInRun_succ_of_step ht]
      omega
    | fault f => simpa [mulmodsInRun, ht] using hstep
    | refused f => simpa [mulmodsInRun, ht] using hstep

theorem acceptsNow_of_busy {s : State} (h : busy s = true) : acceptsNow s = false := by
  rw [← Bool.not_eq_true, acceptsNow_iff, h]
  simp

theorem acceptsNow_of_released {s : State} (h : s.inputs = []) : acceptsNow s = false := by
  simp [acceptsNow, sampleOf, h, releasedPorts]

theorem run_inputs {k : Nat} {s u : State} (h : run k s = .next u) : u.inputs = s.inputs.drop k := by
  induction k generalizing s with
  | zero =>
    cases h
    rfl
  | succ k ih =>
    cases ht : step s with
    | next t =>
      rw [run_succ_of_step ht] at h
      rw [ih h, step_inputs ht, List.drop_tail]
    | fault f => simp [run, ht] at h
    | refused f => simp [run, ht] at h

theorem mulmodsInStep_ipPow {s : State} (hphase : s.phase = .ipPow) (hrst : (sampleOf s).rst = false) :
    mulmodsInStep s = mexpMulmods s := by
  simp [mulmodsInStep, hphase, hrst]

/-- Settles O21: seven bases cost at most 126 each; the exact counts are those of the exponentiation and of one
squaring. -/
theorem isProbablePrimeOperationBound : Obligations.IsProbablePrimeOperationBound := by
  refine ⟨fun n y z s hidle => ⟨_, exec_idle hidle, fun k hbusy => ?_, fun hin k => ?_⟩, ?_, ?_⟩
  · refine MulmodsWithin.mulmodsInRun_le ((mulmodsWithin_ipRange rfl).2 le_rfl) fun j hj u hu => ?_
    obtain ⟨v, hv, hvbusy⟩ := hbusy j hj
    cases hu.symm.trans hv
    exact acceptsNow_of_busy hvbusy
  · refine MulmodsWithin.mulmodsInRun_le ((mulmodsWithin_ipRange rfl).2 le_rfl) fun j _ u hu => ?_
    refine acceptsNow_of_released ((run_inputs hu).trans ?_)
    rw [gotoPhase_inputs, latchCommand_inputs, hin, List.drop_nil]
  · exact fun s hphase hm hreset =>
      mulmodsInRun_mexp (by decide) (fun _ => controllerStep_ipPow) (fun _ => mulmodsInStep_ipPow) hphase hm hreset
  · intro s hphase hrst
    simp only [mulmodsInStep, hrst, hphase, ← Nat.not_lt, ite_not, Bool.false_eq_true, if_false]

end Sys2Proof.Machine

/-! PROOFS. Faults, progress and termination (60_exceptions.md): the accepts that end at once, the accept that clears a
fault's code, the next state of every step, the end of every command, and the independence of blocks. -/

namespace Sys2Proof.Machine

/-! ### Accepts that fault, and accepts that do not -/

/-- What a command that faults at its accept leaves of an idle block: the latches and the response change, and nothing
else (60_exceptions.md R98, R103). -/
theorem raiseFault_latchCommand (c : FaultCode) (o : BitVec 2) (x y z : Word) {s : State} (hidle : s.phase = .idle) :
    raiseFault c (latchCommand o x y z s) = { s with
      op := o, cx := x, cy := y, cz := z, rspValid := true, rspErr := faultCodeBits c, rspData := none,
      errSticky := true } := by
  unfold raiseFault
  rw [← hidle]
  rfl

/-- Settles O14: accept of the reserved code has one case, whatever its fields hold. -/
theorem reservedCodeEndsWithIllegalCommand : Obligations.ReservedCodeEndsWithIllegalCommand := by
  intro x y z s hidle
  rw [exec_idle hidle]
  exact congrArg Host.Outcome.next (raiseFault_latchCommand .illegalCommand 3 x y z hidle)

/-- Settles O15: a zero modulus takes the fault branch of accept, which `is_probable_prime` does not have. -/
theorem zeroModulusEndsWithModulusZero : Obligations.ZeroModulusEndsWithModulusZero := by
  intro a b s hidle
  refine ⟨?_, ?_, _, isProbablePrimeIsAccepted a b 0 s hidle, rfl, rfl, rfl⟩
  · rw [exec_idle hidle]
    exact congrArg Host.Outcome.next
      ((withModulus_zero _ _).trans (raiseFault_latchCommand .modulusZero 0 a b 0 hidle))
  · rw [exec_idle hidle]
    exact congrArg Host.Outcome.next
      ((withModulus_zero _ _).trans (raiseFault_latchCommand .modulusZero 1 a b 0 hidle))

/-- Settles O16: the next state of each command's accept inside its domain. -/
theorem nextAcceptClearsTheFaultCode : Obligations.NextAcceptClearsTheFaultCode := by
  intro i s hidle hdom
  cases i with
  | mulMod a b m =>
    have hm : m ≠ 0 := bne_iff_ne.1 hdom
    exact ⟨_, mulModIsAccepted a b m s hidle hm, rfl, rfl, rfl, rfl⟩
  | powMod a e m =>
    have hm : m ≠ 0 := bne_iff_ne.1 hdom
    exact ⟨_, powModIsAccepted a e m s hidle hm, rfl, rfl, rfl, rfl⟩
  | isProbablePrime n y z => exact ⟨_, isProbablePrimeIsAccepted n y z s hidle, rfl, rfl, rfl, rfl⟩
  | reserved x y z => cases hdom

/-! ### Progress -/

/-- Settles O49: reset and an idle block always step, and under the invariant so does the controller. -/
theorem noInvariantStateStops : Obligations.NoInvariantStateStops := by
  intro s hs
  unfold step
  split_ifs with hrst hbusy hvalid
  · exact ⟨_, rfl⟩
  · exact controllerStep_progress hs.after_dropSample
  · exact exec_progress (s := dropSample s) (busy_eq_false_iff.1 (Bool.eq_false_of_not_eq_true hbusy)) _
  · exact ⟨_, rfl⟩

/-! ### Every command ends -/

theorem bitlen_le (e : Word) : bitlen e ≤ 64 := bitlen_add_le (r := 0) (by omega) (by omega)

theorem Decomposed.one_le_r {s : State} (h : Decomposed s) : 1 ≤ s.r.toNat := by
  obtain ⟨-, hr, -⟩ := h
  exact hr

/-- `D * 2^R` is below a 64-bit candidate, so the bits of `D` and the halvings are together at most 64. -/
theorem Decomposed.bitlen_d_add_r_le {s : State} (h : Decomposed s) : bitlen s.d + s.r.toNat ≤ 64 := by
  obtain ⟨-, -, hprod⟩ := h
  exact bitlen_add_le (by omega) (by omega)

/-- At most six bases come after any base of the table, at most 66 steps each. -/
theorem exists_nextBaseAnswers {s : State} (hn : PassedTrialDivision s.cx) (hd : Decomposed s)
    (hbi : s.bi.toNat ≤ 6) : ∃ rest, NextBaseAnswers s.cx s.d s.r s.bi (66 * 6 + 1) rest := by
  by_cases h6 : s.bi = 6
  · exact ⟨true, fun t ht => ⟨_, nextBase_last (ht.bi.trans h6), completesWithin_complete _ _ _⟩⟩
  · have hlt : s.bi.toNat < 6 := by bv_omega
    have hk : (s.bi + 1).toNat + (5 - s.bi.toNat) = 6 := by bv_omega
    refine ⟨witnessLoop s.cx s.d s.r.toNat (bases.drop (s.bi + 1).toNat), ?_⟩
    intro t ⟨hcx, htd, hr, hbi', hquiet⟩
    have hmore : nextBase t = .next { t with bi := s.bi + 1, phase := .ipBase } :=
      hbi' ▸ nextBase_more (hbi' ▸ hlt)
    have hloop := completesWithin_witnessLoop hn.ne_zero hd.one_le_r hd.bitlen_d_add_r_le hk
      (s := { t with bi := s.bi + 1, phase := .ipBase }) ⟨hcx, htd, hr, rfl, hquiet⟩ rfl
    exact ⟨_, hmore, hloop.mono (by omega)⟩

/-- The answer from `IP_CHECK` on is a function of the value checked, whatever the exponentiation left in its own
registers. -/
theorem exists_answer_of_ipCheck {s : State} (hn : PassedTrialDivision s.cx) (hd : Decomposed s)
    (hbi : s.bi.toNat ≤ 6) (x : Word) :
    ∃ v, ∀ t, Witnessing s.cx s.d s.r s.bi t → t.phase = .ipCheck → t.x = x →
      CompletesWithin (s.r.toNat + (66 * 6 + 1)) v t := by
  obtain ⟨rest, hnext⟩ := exists_nextBaseAnswers hn hd hbi
  refine ⟨verdictWord ((if x == 1 || isPred x s.cx then true else squaringsReachPred s.cx (s.r.toNat - 1) x) && rest),
    fun t hw hphase hx => ?_⟩
  rw [← hx]
  exact completesWithin_ipCheck hnext hn.ne_zero hd.one_le_r hw hphase

section
variable {s : State} (hi : IndicesInRange s) (hquiet : s.rspValid = false) (hp : PhaseInvariant s)
include hquiet hp

theorem mmExec_completes (hphase : s.phase = .mmExec) : ∃ v, CompletesWithin 546 v s := by
  have hcz : s.cz ≠ 0 := (phaseInvariant_mmExec hphase).1 hp
  exact ⟨_, (completesWithin_mmExec hphase hcz hquiet).mono (by omega)⟩

theorem pmLoop_completes (hphase : s.phase = .pmLoop) : ∃ v, CompletesWithin 546 v s := by
  obtain ⟨-, hxr⟩ := (phaseInvariant_pmLoop hphase).1 hp
  have hm : s.xm ≠ 0 := by bv_omega
  have hbits : bitlen s.xe ≤ 64 := bitlen_le s.xe
  exact ⟨_, (completesWithin_pmLoop hphase hm hquiet).mono (by omega)⟩

theorem ipDecomp_completes (hphase : s.phase = .ipDecomp) : ∃ v, CompletesWithin 546 v s := by
  obtain ⟨hn, hprod⟩ := (phaseInvariant_ipDecomp hphase).1 hp
  exact ⟨_, (completesWithin_ipDecomp hn hphase hquiet hprod s.d.isLt).mono (by omega)⟩

include hi

theorem ipTrial_completes (hphase : s.phase = .ipTrial) : ∃ v, CompletesWithin 546 v s := by
  obtain ⟨hpi, -, -⟩ := hi
  obtain ⟨h2, hbefore⟩ := (phaseInvariant_ipTrial hphase).1 hp
  have htrial := completesWithin_ipTrial hphase hquiet (Nat.add_sub_of_le hpi) hbefore
    fun hall _ hphase hcx hd hr hquiet =>
      completesWithin_decompose (passedTrialDivision_of_forall h2 hall) hphase hcx hd hr hquiet
  exact ⟨_, htrial.mono (by omega)⟩

theorem ipBase_completes (hphase : s.phase = .ipBase) : ∃ v, CompletesWithin 546 v s := by
  obtain ⟨-, hbi, -⟩ := hi
  obtain ⟨hn, hd⟩ := (phaseInvariant_ipBase hphase).1 hp
  have hloop := completesWithin_witnessLoop hn.ne_zero hd.one_le_r hd.bitlen_d_add_r_le (Nat.add_sub_of_le hbi)
    ⟨rfl, rfl, rfl, rfl, hquiet⟩ hphase
  exact ⟨_, hloop.mono (by omega)⟩

/-- The invariant does not tie `XE` to `D`: the exponentiation in progress may take 64 iterations. -/
theorem ipPow_completes (hphase : s.phase = .ipPow) : ∃ v, CompletesWithin 546 v s := by
  obtain ⟨-, hbi, -⟩ := hi
  obtain ⟨hn, hd, -, hxr⟩ := (phaseInvariant_ipPow hphase).1 hp
  obtain ⟨v, hcheck⟩ := exists_answer_of_ipCheck hn hd hbi (powmodLoop s.xm 64 s.xr s.xb s.xe)
  have hm : s.xm ≠ 0 := by bv_omega
  have hbits : bitlen s.xe ≤ 64 := bitlen_le s.xe
  have hpow := completesWithin_mexp (p := .ipPow) (by decide) (fun t ht => controllerStep_ipPow ht) hphase hm hquiet
    fun b => hcheck _ ⟨rfl, rfl, rfl, rfl, hquiet⟩ rfl rfl
  exact ⟨v, hpow.mono (by omega)⟩

theorem ipCheck_completes (hphase : s.phase = .ipCheck) : ∃ v, CompletesWithin 546 v s := by
  obtain ⟨-, hbi, -⟩ := hi
  obtain ⟨hn, hd, -⟩ := (phaseInvariant_ipCheck hphase).1 hp
  obtain ⟨v, hcheck⟩ := exists_answer_of_ipCheck hn hd hbi s.x
  exact ⟨v, (hcheck s ⟨rfl, rfl, rfl, rfl, hquiet⟩ hphase rfl).mono (by omega)⟩

theorem ipSquare_completes (hphase : s.phase = .ipSquare) : ∃ v, CompletesWithin 546 v s := by
  obtain ⟨-, hbi, -⟩ := hi
  obtain ⟨hn, hd, -, hsq⟩ := (phaseInvariant_ipSquare hphase).1 hp
  obtain ⟨rest, hnext⟩ := exists_nextBaseAnswers hn hd hbi
  have hsquare := completesWithin_ipSquare hnext hn.ne_zero ⟨rfl, rfl, rfl, rfl, hquiet⟩ hphase
    (Nat.add_sub_of_le hsq)
  exact ⟨_, hsquare.mono (by omega)⟩

end

/-- The command in progress completes within 546 steps, whichever phase it stands in. -/
theorem StateInvariant.completes {s : State} (hs : StateInvariant s) (hphase : s.phase ≠ .idle) :
    ∃ v, CompletesWithin 546 v s := by
  obtain ⟨hi, hresponse, hp⟩ := hs
  have hbusy : busy s = true := by simpa [busy] using hphase
  obtain ⟨hquiet, -, -⟩ := hresponse.empty_of_busy hbusy
  cases h : s.phase with
  | idle => exact absurd h hphase
  | mmExec => exact mmExec_completes hquiet hp h
  | pmLoop => exact pmLoop_completes hquiet hp h
  | ipRange => exact ⟨_, completesWithin_ipRange h hquiet⟩
  | ipTrial => exact ipTrial_completes hi hquiet hp h
  | ipDecomp => exact ipDecomp_completes hquiet hp h
  | ipBase => exact ipBase_completes hi hquiet hp h
  | ipPow => exact ipPow_completes hi hquiet hp h
  | ipCheck => exact ipCheck_completes hi hquiet hp h
  | ipSquare => exact ipSquare_completes hi hquiet hp h

/-- Settles O50: an idle block is there already, and a busy one completes its command. -/
theorem everyCommandEnds : Obligations.EveryCommandEnds := by
  intro s hs hreset
  by_cases hidle : s.phase = .idle
  · exact ⟨0, Nat.zero_le _, s, rfl, hidle⟩
  · obtain ⟨v, hv⟩ := hs.completes hidle
    obtain ⟨k, hk, u, hrun, hend, -⟩ := hv hreset
    exact ⟨k, hk, u, hrun.run_eq, hend⟩

/-! ### Several blocks -/

/-- A system's step is one of its blocks taking a step of its own. -/
theorem stepBlockAt_next {k : Nat} {bs cs : Blocks} (h : stepBlockAt k bs = .next cs) :
    ∃ s t, bs[k]? = some s ∧ step s = .next t ∧ cs = bs.set k t := by
  unfold stepBlockAt at h
  split at h
  · cases h
  · next s hs =>
    split at h
    · next t ht => exact ⟨s, t, hs, ht, by simpa using h.symm⟩
    · cases h
    · cases h

/-- Settles O59: a system's step replaces one entry of the list of blocks. -/
theorem blocksShareNothing : Obligations.BlocksShareNothing := by
  intro k bs cs h
  obtain ⟨s, t, hs, ht, rfl⟩ := stepBlockAt_next h
  obtain ⟨hk, -⟩ := List.getElem?_eq_some_iff.1 hs
  exact ⟨List.length_set, fun j hj => List.getElem?_set_ne hj.symm, s, t, hs, ht, List.getElem?_set_self hk⟩

end Sys2Proof.Machine

/-! PROOFS. Reset and hazards (70_reset_and_hazards.md): what a reset step, an idle step and a busy step do, what a host
can read of a response, and the block before its first reset. -/

namespace Sys2Proof.Machine

/-! ### A step with reset, and an idle step without an offer -/

/-- Reset comes before accept and before the controller's step (70 R111). -/
theorem step_reset {s : State} (hrst : (sampleOf s).rst = true) : step s = .next (resetBlock (dropSample s)) := by
  unfold step
  rw [if_pos hrst]

/-- An idle block without reset and without an offer only takes its sample (70 R116). -/
theorem step_idle {s : State} (hidle : s.phase = .idle) (hrst : (sampleOf s).rst = false)
    (hoffer : (sampleOf s).cmdValid = false) : step s = .next (dropSample s) := by
  have hb : busy s = false := busy_eq_false_iff.2 hidle
  simp [step, hrst, hb, hoffer]

/-- The block is not ready exactly when it is in reset or busy (10 R13). -/
theorem cmdReady_eq_false_iff {s : State} : cmdReady s = false ↔ (sampleOf s).rst = true ∨ busy s = true := by
  cases hrst : (sampleOf s).rst <;> simp [cmdReady, busy, hrst]

/-- Settles O7: the next state is the reset state, whatever the phase. -/
theorem resetHasPriority : Obligations.ResetHasPriority := by
  intro s hrst
  exact ⟨cmdReady_eq_false_iff.2 (.inl hrst), resetBlock (dropSample s), step_reset hrst, rfl, rfl, rfl, rfl, rfl, rfl⟩

/-- Settles O8, by the rule of an idle step. -/
theorem idleBlockKeepsItsResponse : Obligations.IdleBlockKeepsItsResponse :=
  fun _ hidle hrst hoffer => step_idle hidle hrst hoffer

/-- Settles O9: a block in reset and a busy block each step by a rule that reads no command port. -/
theorem commandPortsAreIgnoredWhenNotReady : Obligations.CommandPortsAreIgnoredWhenNotReady := by
  intro s p q rest hready hq
  have hsample : (sampleOf { s with inputs := q :: rest }).rst = (sampleOf { s with inputs := p :: rest }).rst := hq
  cases hrst : (sampleOf { s with inputs := p :: rest }).rst with
  | true => exact (step_reset hrst).trans (step_reset (hsample.trans hrst)).symm
  | false =>
    have hb : busy { s with inputs := p :: rest } = true :=
      (cmdReady_eq_false_iff.1 hready).resolve_left (ne_true_of_eq_false hrst)
    exact (step_busy hrst hb).trans (step_busy (hsample.trans hrst) hb).symm

/-! ### What a host reads -/

/-- The host has data exactly from a valid response without a code whose data stands (70 R115). -/
theorem hostReadData_eq_some_iff {s : State} {v : Word} :
    hostReadData s = some v ↔ s.rspValid = true ∧ s.rspErr = 0 ∧ s.rspData = some v := by
  simp [hostReadData, and_assoc]

/-- The host has a code exactly from a valid response (70 R115). -/
theorem hostReadErr_eq_some_iff {s : State} {c : BitVec 2} :
    hostReadErr s = some c ↔ s.rspValid = true ∧ s.rspErr = c := by
  simp [hostReadErr]

/-- Settles O54: the two reads by their rules, and the rest by the invariant's consistent response. -/
theorem hostReadsOnlyValidResponses : Obligations.HostReadsOnlyValidResponses := by
  refine ⟨fun s v h => hostReadData_eq_some_iff.1 h, fun s c => hostReadErr_eq_some_iff, ?_⟩
  rintro s ⟨-, ⟨-, -, hdata, hbusy⟩, -⟩
  refine ⟨fun hvalid herr => ?_, hbusy⟩
  obtain ⟨v, hv⟩ := Option.isSome_iff_exists.1 (hdata.2 ⟨hvalid, herr⟩)
  exact ⟨v, hostReadData_eq_some_iff.2 ⟨hvalid, herr, hv⟩⟩

/-! ### The block before its first reset -/

/-- Before the first reset a step with `rst` leaves the reset state, and any other is refused (70 R112). -/
theorem poweredStep_neverReset (p : Ports) (rest : List Ports) :
    poweredStep (.neverReset (p :: rest)) =
      if p.rst then .next (.running { State.reset with inputs := rest }) else .refused .beforeFirstReset := rfl

/-- After the first reset a powered block steps by `step`. -/
theorem poweredStep_running {s t : State} (h : step s = .next t) : poweredStep (.running s) = .next (.running t) := by
  simp only [poweredStep, h]

/-- Settles O60: the first sample's `rst` decides before the first reset, and `step` after it. -/
theorem onlyResetIsEnabledBeforeTheFirstReset : Obligations.OnlyResetIsEnabledBeforeTheFirstReset := by
  refine ⟨fun p rest => ⟨fun hrst => ?_, fun hrst => ?_⟩, fun s t => poweredStep_running⟩
  · rw [poweredStep_neverReset, hrst, if_neg Bool.false_ne_true]
  · rw [poweredStep_neverReset, if_pos hrst]

end Sys2Proof.Machine
